-- ==== Sys2Proof/Word.lean ====
section
/-! DEFINITION. The words of the P1X1 engine: 32-bit registers and data bus (00_scope.md R6, XLEN = 32), bytes, and
12-bit offsets into the 4096-byte register window (20_memory.md R60). All values are unsigned (R7). -/

namespace Sys2Proof

/-- A 32-bit register value, data-bus word or command word. -/
abbrev Word := BitVec 32

/-- One byte of a buffer. -/
abbrev Byte := BitVec 8

/-- An offset into the register window, 0x000 to 0xFFF. -/
abbrev Offset := BitVec 12

end Sys2Proof
end

