-- ==== Sys2Proof/Config.lean ====
section
/-! DEFINITION. The implementation parameters of 00_scope.md R6, the two buffers, and the values the spec leaves OPEN
or calls draws. The open ones have no body: nothing can prove a value of them. -/

namespace Sys2Proof

/-- The two data buffers, as the SRC field selects them (30_encoding.md R90, R97): 0 is IBUF, 1 is OBUF. -/
inductive Buf where
  | ibuf
  | obuf
deriving DecidableEq, Repr

namespace Config

/-- Width of every engine register and of the host data bus. -/
abbrev xlen : Nat := 32
/-- Capacity of the input buffer, in bytes. -/
abbrev ibufBytes : Nat := 32
/-- Capacity of the output buffer, in bytes. -/
abbrev obufBytes : Nat := 64
/-- The largest input length DEFLATE accepts. -/
abbrev dflInMax : Nat := 4
/-- The largest output DEFLATE can produce. -/
abbrev dflOutWorst : Nat := 12
/-- Bytes of host address space the register window occupies. -/
abbrev aperture : Nat := 4096
/-- The constant ID register (10_state.md R22). -/
def idValue : Word := 0x504E4731#32
/-- The constant CAPS register (10_state.md R23). -/
def capsValue : Word := 0x00044020#32

/-- `BASE_ADDR`, OPEN (00_scope.md R6, 20_memory.md R72): the host address of offset 0 of the window (log 10). -/
opaque baseAddr : Nat

/-- The draw of 70_reset_and_hazards.md R221 and R226: what the buffer byte at a window offset holds after the given
number of hardware resets, until something writes it. A free value (log 4). -/
opaque bufferDraw : Nat → Nat → Byte

/-- `BUSY_LATENCY`, OPEN: finite and unbounded (00_scope.md R6, 60_exceptions.md R194, 70_reset_and_hazards.md R239). In
each round of the events past a schedule's listed turns, how many events come before the engine's turn (log 2). -/
opaque busyLatency : Nat → Nat

/-- Whether the platform delivers a hardware reset (70_reset_and_hazards.md R220) at a place of a round, before the
engine's turn; else the host acts there (log 19). -/
opaque resetComes : Nat → Nat → Bool

end Config

end Sys2Proof
end

