-- ==== Sys2Proof/Syntax.lean ====
section
/-! DEFINITION. The nine commands of 30_encoding.md R93, one constructor per row of spec/opcode_table.json, with the
operands that stand in the command word (R92). The operand in ARG is not in the word. -/

namespace Sys2Proof

/-- A command with its operand fields. LEN is the raw 16-bit field: a word may spell a LEN above its bound (R97). -/
inductive Instr where
  /-- NOP, 40_byteorder.md R120. -/
  | nop
  /-- BSWAP, 40_byteorder.md R121. -/
  | bswap
  /-- CRC_INIT, 41_crc.md R140. -/
  | crcInit
  /-- CRC_BYTE imm8, 41_crc.md R141. -/
  | crcByte (imm8 : Byte)
  /-- CRC_WORD, 41_crc.md R142. -/
  | crcWord
  /-- CRC_BUF src, len, 41_crc.md R143. -/
  | crcBuf (src : Buf) (len : BitVec 16)
  /-- CRC_FINAL, 41_crc.md R144. -/
  | crcFinal
  /-- CRC_BLOCK src, len, 41_crc.md R145. -/
  | crcBlock (src : Buf) (len : BitVec 16)
  /-- DEFLATE len, 42_deflate.md R160. -/
  | deflate (len : BitVec 16)
deriving DecidableEq, Repr

end Sys2Proof
end

