-- ==== Sys2Proof/WellFormed.lean ====
section
/-! DEFINITION. Which commands are well formed: LEN within the bound of its command (30_encoding.md R94, R95). -/

namespace Sys2Proof

/-- The capacity of a buffer in bytes (00_scope.md R6). -/
abbrev Buf.capacity : Buf → Nat
  | .ibuf => Config.ibufBytes
  | .obuf => Config.obufBytes

/-- LEN is in range: at most 32 or 64 for CRC_BUF and CRC_BLOCK by their buffer, at most 4 for DEFLATE; the other
commands have no LEN. -/
def Instr.wf : Instr → Bool
  | .nop => true
  | .bswap => true
  | .crcInit => true
  | .crcByte _ => true
  | .crcWord => true
  | .crcBuf src len => decide (len.toNat ≤ src.capacity)
  | .crcFinal => true
  | .crcBlock src len => decide (len.toNat ≤ src.capacity)
  | .deflate len => decide (len.toNat ≤ Config.dflInMax)

end Sys2Proof
end

