-- ==== Sys2Proof/Decode.lean ====
section
/-! DEFINITION. The engine's error codes (60_exceptions.md R190), the decoder of command words (30_encoding.md R94),
total on all 2^32 words and rejecting each by its error code, then the encoder and the assembler syntax (R97). -/

namespace Sys2Proof

/-- The error codes of 60_exceptions.md R190 that an event can raise. -/
inductive ErrCode where
  /-- 1: a host write to CMD, ARG, CRC or IBUF while PEND = 1. -/
  | busy
  /-- 2: OP in 0x9 to 0xF. -/
  | illegalOp
  /-- 3: a must-be-zero bit of the form is set. -/
  | rsvdField
  /-- 4: LEN above its bound. -/
  | lenRange
  /-- 5: the DEFLATE output does not fit OBUF. -/
  | outOverflow
deriving DecidableEq, Repr

/-- The value STATUS.ECODE records for an error (R190). -/
def ErrCode.code : ErrCode → BitVec 4
  | .busy => 1#4
  | .illegalOp => 2#4
  | .rsvdField => 3#4
  | .lenRange => 4#4
  | .outOverflow => 5#4

/-- The four forms of 30_encoding.md R91. -/
inductive Form where
  | n
  | b
  | l
  | d
deriving DecidableEq, Repr

/-- The must-be-zero bits of a form (R91): [27:0], [27:8], [26:16], [27:16]. -/
def Form.mustBeZero : Form → Word
  | .n => 0x0FFFFFFF#32
  | .b => 0x0FFFFF00#32
  | .l => 0x07FF0000#32
  | .d => 0x0FFF0000#32

/-- OP = w[31:28] (R90). -/
def opField (w : Word) : BitVec 4 := w.extractLsb' 28 4

/-- SRC = w[27]: 0 is IBUF, 1 is OBUF (R90, R92). -/
def srcField (w : Word) : Buf := if w.getLsbD 27 then .obuf else .ibuf

/-- IMM8 = w[7:0] (R92). -/
def immField (w : Word) : Byte := w.extractLsb' 0 8

/-- LEN = w[15:0] (R92). -/
def lenField (w : Word) : BitVec 16 := w.extractLsb' 0 16

/-- The opcode map of R93: the form of an assigned opcode and the command its fields spell; none for 0x9 to 0xF. -/
def rowOf (w : Word) : Option (Form × Instr) :=
  match (opField w).toNat with
  | 0 => some (.n, .nop)
  | 1 => some (.n, .bswap)
  | 2 => some (.n, .crcInit)
  | 3 => some (.b, .crcByte (immField w))
  | 4 => some (.n, .crcWord)
  | 5 => some (.l, .crcBuf (srcField w) (lenField w))
  | 6 => some (.n, .crcFinal)
  | 7 => some (.l, .crcBlock (srcField w) (lenField w))
  | 8 => some (.d, .deflate (lenField w))
  | _ => none

/-- The LEN checks of `Decode` in R94: 32 for IBUF, 64 for OBUF, 4 for DEFLATE. -/
def lenInRange : Instr → Bool
  | .crcBuf .ibuf len => decide (len.toNat ≤ Config.ibufBytes)
  | .crcBuf .obuf len => decide (len.toNat ≤ Config.obufBytes)
  | .crcBlock .ibuf len => decide (len.toNat ≤ Config.ibufBytes)
  | .crcBlock .obuf len => decide (len.toNat ≤ Config.obufBytes)
  | .deflate len => decide (len.toNat ≤ Config.dflInMax)
  | .nop | .bswap | .crcInit | .crcByte _ | .crcWord | .crcFinal => true

/-- `Decode(w)` of R94: one command with its fields, or exactly one error code, the checks in the rule's order. -/
def decode (w : Word) : Except ErrCode Instr :=
  match rowOf w with
  | none => .error .illegalOp
  | some (form, i) =>
    if w &&& form.mustBeZero ≠ 0#32 then .error .rsvdField
    else if lenInRange i then .ok i
    else .error .lenRange

/-- The word's SRC bit (R97: src << 27). -/
def srcBits : Buf → Word
  | .ibuf => 0x00000000#32
  | .obuf => 0x08000000#32

/-- The word of a command (R97), written from the table of R93. A LEN above its bound is encoded as it stands. -/
def encode : Instr → Word
  | .nop => 0x00000000#32
  | .bswap => 0x10000000#32
  | .crcInit => 0x20000000#32
  | .crcByte imm8 => 0x30000000#32 ||| imm8.setWidth 32
  | .crcWord => 0x40000000#32
  | .crcBuf src len => 0x50000000#32 ||| srcBits src ||| len.setWidth 32
  | .crcFinal => 0x60000000#32
  | .crcBlock src len => 0x70000000#32 ||| srcBits src ||| len.setWidth 32
  | .deflate len => 0x80000000#32 ||| len.setWidth 32

/-- An operand of the assembler syntax of R97: a numeral, by its value, or `ibuf` / `obuf`. -/
inductive AsmOperand where
  | num (n : Nat)
  | buf (src : Buf)
deriving DecidableEq, Repr

/-- A numeral of at most `bits` bits, or none: an assembler refuses an imm8 above 255 and a len above 65535 (R97). -/
def asmField (bits n : Nat) : Option (BitVec bits) :=
  if n < 2 ^ bits then some (BitVec.ofNat bits n) else none

/-- The assembler of R97: a mnemonic with its operands to its word, or none where the syntax has no such line. -/
def assemble (mnemonic : String) (operands : List AsmOperand) : Option Word :=
  match mnemonic, operands with
  | "NOP", [] => some (encode .nop)
  | "BSWAP", [] => some (encode .bswap)
  | "CRC_INIT", [] => some (encode .crcInit)
  | "CRC_BYTE", [.num imm8] => (asmField 8 imm8).map fun b => encode (.crcByte b)
  | "CRC_WORD", [] => some (encode .crcWord)
  | "CRC_BUF", [.buf src, .num len] => (asmField 16 len).map fun n => encode (.crcBuf src n)
  | "CRC_FINAL", [] => some (encode .crcFinal)
  | "CRC_BLOCK", [.buf src, .num len] => (asmField 16 len).map fun n => encode (.crcBlock src n)
  | "DEFLATE", [.num len] => (asmField 16 len).map fun n => encode (.deflate n)
  | _, _ => none

/-- The word of `nbits` bits numbered as spec/opcode_table.json numbers them, every higher bit 0. A command is one
32-bit value with no byte order (20_memory.md R69), so its bits are the table's bits. -/
def tableWord (nbits w : Nat) : Word := BitVec.ofNat 32 (w % 2 ^ nbits)

/-- What the decoder reads from a table word; none where it rejects it or the word is longer than a command. -/
def decodeTableWord (nbits w : Nat) : Option Instr :=
  if nbits ≤ 32 then
    match decode (tableWord nbits w) with
    | .ok i => some i
    | .error _ => none
  else none

end Sys2Proof
end

