-- ==== Sys2Proof/Machine/State.lean ====
section
/-! DEFINITION. The state of the machine as plain data: the engine's state, exactly as 10_state.md R20 lists it, and
beside it the model's own record of the two agents that act on the engine (00_scope.md R11): the host's program and
the schedule. ID and CAPS are constants (Config.lean), and `irq` is a function of this state (Machine/Flags.lean). -/

namespace Sys2Proof.Machine

/-- The bus response of a host access (20_memory.md R63). -/
inductive Resp where
  | okay
  | buserr
deriving DecidableEq, Repr

/-- What one host access returns: `(rdata, resp)` for a read (R63), `resp` for a write (R64). -/
inductive Reply where
  | read (data : Word) (resp : Resp)
  | write (resp : Resp)
deriving DecidableEq, Repr

/-- The host operations of 30_encoding.md R98. `W off, v` is a write with all four strobes; a label is the place of
an operation in the program. Each operation is one bus access. -/
inductive HostOp where
  /-- `R off`. -/
  | read (off : Offset)
  /-- `WB off, v, strb`. -/
  | write (off : Offset) (v : Word) (strb : BitVec 4)
  /-- `BIT_SET off, n, label`: read `off`, and go to `target` if bit `n` of the value read is 1. -/
  | bitSet (off : Offset) (n : Fin 32) (target : Nat)
deriving DecidableEq, Repr

/-- Which agent makes an event of the total order of 20_memory.md R74. -/
inductive Turn where
  /-- The host's next bus access. -/
  | host
  /-- The engine's completion step (60_exceptions.md R194); it passes where PEND = 0. -/
  | engine
  /-- The hardware reset the platform delivers (70_reset_and_hazards.md R220). -/
  | hardwareReset
deriving DecidableEq, Repr

/-- Who makes the coming events: some turns listed, and past them rounds of free length (log 2). -/
structure Schedule where
  /-- The next events' turns. -/
  listed : List Turn
  /-- Past the listed turns: the round the next event is in. -/
  round : Nat
  /-- How many events of that round have come. -/
  spent : Nat
deriving DecidableEq, Repr

/-- Why the machine stops. Its one reason stands in states no run from reset reaches. -/
inductive Fault where
  /-- Raised by the completion step when CMD holds a word that does not decode. 60_exceptions.md R194 says this cannot
  be: CMD was accepted. Safe: the machine stops where the spec says nothing (log 7). -/
  | inFlightNotDecodable
deriving DecidableEq, Repr

/-- Why the machine gives an instruction no meaning. -/
inductive Refusal where
  /-- Raised by `exec` for an instruction that has no meaning yet. Safe. -/
  | notModelled (mnemonic : String)
  /-- Raised by the meanings of CRC_BUF, CRC_BLOCK and DEFLATE for a LEN above its bound. Such a command is rejected at
  the CMD write and never in flight (30_encoding.md R94). Safe (log 6). -/
  | lengthOutOfRange
deriving DecidableEq, Repr

/-- The machine's state. Fields up to `mem` are the engine's (10_state.md R20); the rest are the model's own. -/
structure State where
  /-- CTRL[0], IE_DONE (10_state.md R24). -/
  ieDone : Bool
  /-- CTRL[1], IE_ERR (R24). -/
  ieErr : Bool
  /-- PEND, the hidden in-flight flag (R36), which STATUS.BUSY reads (R26). -/
  pend : Bool
  /-- STATUS[1], DONE (R25). -/
  done : Bool
  /-- STATUS[2], ERR (R25). -/
  err : Bool
  /-- STATUS[7:4], ECODE (R25). -/
  ecode : BitVec 4
  /-- CMD, the last accepted command word (R27). -/
  cmd : Word
  /-- ARG (R28). -/
  arg : Word
  /-- RES (R29). -/
  res : Word
  /-- CRC, the running state before the final inversion (R30). -/
  crc : Word
  /-- OLEN (R31). -/
  olen : Word
  /-- The bytes of IBUF and OBUF written since hardware reset, by window offset (R32, R33), in the canonical form
  `Memory.wf`. What an unlisted byte reads as is `State.unwritten` (Machine/Ops.lean; log 4, log 5). -/
  mem : List Host.Cell
  /-- The model's own: how many hardware resets have drawn the buffers (log 4). -/
  draws : Nat
  /-- The model's own: the host's program (log 1). -/
  prog : List HostOp
  /-- The model's own: the host's place in its program (log 1). -/
  hpc : Nat
  /-- The model's own: who makes the coming events (log 2). -/
  sched : Schedule
  /-- The model's own: what the last host access returned (log 9). -/
  reply : Option Reply
deriving DecidableEq, Repr

/-- The machine after a hardware reset (70_reset_and_hazards.md R221, R224): every register at the spec's value and
every buffer byte a draw, so nothing listed in `mem`. The host has no program and no turn is listed (log 17). -/
def State.reset : State where
  ieDone := false
  ieErr := false
  pend := false
  done := false
  err := false
  ecode := 0#4
  cmd := 0x00000000#32
  arg := 0x00000000#32
  res := 0x00000000#32
  crc := 0xFFFFFFFF#32
  olen := 0x00000000#32
  mem := []
  draws := 0
  prog := []
  hpc := 0
  sched := ⟨[], 0, 0⟩
  reply := none

end Sys2Proof.Machine
end

