-- ==== Sys2Proof/Machine/Flags.lean ====
section
/-! DEFINITION. The CTRL and STATUS registers as software reads them, every change of a STATUS field
(60_exceptions.md R195), and the interrupt line (R200). -/

namespace Sys2Proof.Machine

/-- CTRL as read (10_state.md R24): IE_DONE in bit 0, IE_ERR in bit 1, every other bit 0. -/
def State.ctrlWord (s : State) : Word :=
  0#30 ++ BitVec.ofBool s.ieErr ++ BitVec.ofBool s.ieDone

/-- STATUS as read (10_state.md R25, R26): BUSY in bit 0 (it is PEND), DONE in bit 1, ERR in bit 2, ECODE in [7:4],
every other bit 0. -/
def State.statusWord (s : State) : Word :=
  0#24 ++ s.ecode ++ 0#1 ++ BitVec.ofBool s.err ++ BitVec.ofBool s.done ++ BitVec.ofBool s.pend

/-- The interrupt output (60_exceptions.md R200). -/
def State.irq (s : State) : Bool :=
  (s.done && s.ieDone) || (s.err && s.ieErr)

/-- Writing 1 to STATUS bit 1 (10_state.md R25): DONE <- 0. -/
def State.clearDone (s : State) : State := { s with done := false }

/-- What a command that completes without error does to STATUS (60_exceptions.md R194, R195): DONE <- 1, PEND <- 0. -/
def State.completeOk (s : State) : State := { s with done := true, pend := false }

/-- The CTRL fields a write with bit 31 clear stores (10_state.md R24). -/
def State.setEnables (s : State) (v : Word) : State :=
  { s with ieDone := v.getLsbD 0, ieErr := v.getLsbD 1 }

end Sys2Proof.Machine
end

