-- ==== Sys2Proof/Machine/Ops.lean ====
section
/-! DEFINITION. The shared operations of the machine: buffer memory, byte lanes, the error entry `raise Err` and the
return from it, acceptance of a command, and the two resets. -/

namespace Sys2Proof.Machine

/-- The window offset of byte 0 of a buffer (20_memory.md R62). -/
def bufBase : Buf → Nat
  | .ibuf => 0x100
  | .obuf => 0x200

/-- A window offset at which a buffer byte lives: IBUF 0x100-0x11F, OBUF 0x200-0x23F (20_memory.md R62). -/
def isBufferByte (a : Nat) : Bool :=
  (decide (0x100 ≤ a) && decide (a < 0x120)) || (decide (0x200 ≤ a) && decide (a < 0x240))

/-- The canonical form of buffer memory: addresses strictly rising, each a buffer byte's (log 5). -/
abbrev Memory.wf (m : List Host.Cell) : Prop :=
  m.Pairwise (fun c d => c.1 < d.1) ∧ ∀ c ∈ m, isBufferByte c.1 = true

/-- The value an address is listed with; none where nothing has written it since hardware reset. -/
def Memory.get? : List Host.Cell → Nat → Option Byte
  | [], _ => none
  | c :: m, a => if c.1 = a then some c.2 else Memory.get? m a

/-- List an address with a value, keeping the addresses strictly rising. -/
def Memory.set : List Host.Cell → Nat → Byte → List Host.Cell
  | [], a, v => [(a, v)]
  | c :: m, a, v =>
    if a < c.1 then (a, v) :: c :: m
    else if a = c.1 then (a, v) :: m
    else c :: Memory.set m a v

/-- What a buffer byte not written since hardware reset reads as: that reset's draw (70_reset_and_hazards.md R226). -/
def State.unwritten (s : State) (a : Nat) : Byte := Config.bufferDraw s.draws a

/-- The byte at a buffer byte's window offset. -/
def State.readByte (s : State) (a : Nat) : Byte := (Memory.get? s.mem a).getD (s.unwritten a)

/-- Write the byte at a buffer byte's window offset. -/
def State.setByte (s : State) (a : Nat) (v : Byte) : State := { s with mem := Memory.set s.mem a v }

/-- Write a byte sequence at consecutive window offsets. -/
def State.storeBytes (s : State) (a : Nat) : List Byte → State
  | [] => s
  | b :: bs => (s.setByte a b).storeBytes (a + 1) bs

/-- Byte lane `k` of the data bus, bits [8k+7 : 8k] (20_memory.md R61). -/
def lane (v : Word) (k : Nat) : Byte := v.extractLsb' (8 * k) 8

/-- The word whose four bytes at rising window offsets are in its little-endian lanes (20_memory.md R61, R62). -/
def State.readWord (s : State) (a : Nat) : Word :=
  s.readByte (a + 3) ++ s.readByte (a + 2) ++ s.readByte (a + 1) ++ s.readByte a

/-- Write lane `k` where its strobe is set (20_memory.md R64). -/
def State.writeLane (s : State) (a : Nat) (v : Word) (strb : BitVec 4) (k : Nat) : State :=
  if strb.getLsbD k then s.setByte (a + k) (lane v k) else s

/-- The IBUF write effect of 20_memory.md R64: each strobed lane to its byte. -/
def State.writeLanes (s : State) (a : Nat) (v : Word) (strb : BitVec 4) : State :=
  (((s.writeLane a v strb 0).writeLane a v strb 1).writeLane a v strb 2).writeLane a v strb 3

/-- `raise Err(code)` of 60_exceptions.md R193, the engine's only exception entry (R198): DONE <- 0; ECODE keeps the
first code since ERR was last 0; ERR <- 1. PEND and all data state stay. -/
def State.raiseErr (s : State) (e : ErrCode) : State :=
  { s with done := false, ecode := if s.err then s.ecode else e.code, err := true }

/-- The return from an error (60_exceptions.md R199): writing 1 to STATUS bit 2 clears ERR and ECODE. -/
def State.clearErr (s : State) : State := { s with err := false, ecode := 0#4 }

/-- A completion that ends in an error (60_exceptions.md R194): raise it, and PEND <- 0. -/
def State.completeErr (s : State) (e : ErrCode) : State := { s.raiseErr e with pend := false }

/-- The STATUS write of 10_state.md R25: bit 1 clears DONE, bit 2 clears ERR and ECODE, other bits are ignored. -/
def State.writeStatus (s : State) (v : Word) : State :=
  let t := if v.getLsbD 1 then s.clearDone else s
  if v.getLsbD 2 then t.clearErr else t

/-- A command accepted (60_exceptions.md R192): CMD <- w, PEND <- 1, DONE <- 0. -/
def State.accept (s : State) (w : Word) : State := { s with cmd := w, pend := true, done := false }

/-- A command submitted while none is in flight (60_exceptions.md R192): accepted, or its decoding error raised. -/
def State.submit (s : State) (w : Word) : State :=
  match decode w with
  | .ok _ => s.accept w
  | .error e => s.raiseErr e

/-- What both resets do to the registers and PEND (70_reset_and_hazards.md R221, R222); an in-flight command is
discarded. -/
def State.resetRegisters (s : State) : State :=
  { s with
    ieDone := false
    ieErr := false
    pend := false
    done := false
    err := false
    ecode := 0#4
    cmd := 0x00000000#32
    arg := 0x00000000#32
    res := 0x00000000#32
    crc := 0xFFFFFFFF#32
    olen := 0x00000000#32 }

/-- Soft reset (70_reset_and_hazards.md R222): the registers; IBUF and OBUF keep their contents. -/
def State.softReset (s : State) : State := s.resetRegisters

/-- Hardware reset (70_reset_and_hazards.md R221): the registers, and a fresh draw for every buffer byte. The host's
program and the schedule are no state of the engine (log 13). -/
def State.hardwareReset (s : State) : State :=
  { s.resetRegisters with mem := [], draws := s.draws + 1 }

/-- The CTRL write of 10_state.md R24: bit 31 set is a soft reset and nothing else; else the two enables. -/
def State.writeCtrl (s : State) (v : Word) : State :=
  if v.getLsbD 31 then s.softReset else s.setEnables v

end Sys2Proof.Machine
end

