-- ==== Sys2Proof/Machine/Operands.lean ====
section
/-! DEFINITION. Every operand a command takes from the state or forms from the command word (30_encoding.md R92):
`buf(SRC)[0..LEN)` and the big-endian bytes of ARG. -/

namespace Sys2Proof.Machine

/-- `be32(v)` of 00_scope.md R8: the four bytes of a word, most significant first. -/
def be32 (v : Word) : List Byte := [lane v 3, lane v 2, lane v 1, lane v 0]

/-- `buf(SRC)[0..n)`: bytes 0 to n-1 of a buffer, in order (30_encoding.md R92, 41_crc.md section 2). -/
def State.bufBytes (s : State) (src : Buf) (n : Nat) : List Byte :=
  (List.range n).map fun i => s.readByte (bufBase src + i)

/-- The byte count a LEN field stands for: unsigned, not scaled (30_encoding.md R92). -/
abbrev lenOperand (len : BitVec 16) : Nat := len.toNat

/-- LEN is within the buffer it counts bytes of (30_encoding.md R94): what acceptance has checked. -/
def lenFits (src : Buf) (len : BitVec 16) : Bool :=
  match src with
  | .ibuf => decide (lenOperand len ≤ Config.ibufBytes)
  | .obuf => decide (lenOperand len ≤ Config.obufBytes)

/-- LEN is within DEFLATE's bound (42_deflate.md R160). -/
def deflateLenFits (len : BitVec 16) : Bool := decide (lenOperand len ≤ Config.dflInMax)

end Sys2Proof.Machine
end

