-- ==== Sys2Proof/Machine/ByteOrder.lean ====
section
/-! DEFINITION. NOP and BSWAP (40_byteorder.md R120, R121). -/

namespace Sys2Proof.Machine

/-- The byte reversal of R121: `{ v[7:0], v[15:8], v[23:16], v[31:24] }`. -/
def bswap (v : Word) : Word := lane v 0 ++ lane v 1 ++ lane v 2 ++ lane v 3

/-- NOP, R120: the common STATUS changes only. -/
def execNop (s : State) : Host.Outcome State Fault Refusal :=
  .next s.completeOk

/-- BSWAP, R121: RES <- ARG with its bytes reversed. -/
def execBswap (s : State) : Host.Outcome State Fault Refusal :=
  .next (State.completeOk { s with res := bswap s.arg })

end Sys2Proof.Machine
end

