-- ==== Sys2Proof/Machine/Crc.lean ====
section
/-! DEFINITION. The CRC engine (41_crc.md): the CRC function of R130 to R136 and the six CRC commands. The spec takes
the algorithm's parameters from general knowledge and says so (log 12). -/

namespace Sys2Proof.Machine

/-- CRC_INIT_VALUE (R131). -/
def crcInitValue : Word := 0xFFFFFFFF#32

/-- The bit-reflected generator polynomial (R130). -/
def crcPoly : Word := 0xEDB88320#32

/-- One of the eight iterations of `crc_upd` (R132). -/
def crcStep (c : Word) : Word :=
  if c.getLsbD 0 then (c >>> 1) ^^^ crcPoly else c >>> 1

/-- `n` iterations of `crcStep`. -/
def crcSteps : Nat → Word → Word
  | 0, c => c
  | n + 1, c => crcSteps n (crcStep c)

/-- `crc_upd(c, b)` (R132): exclusive-or the byte in, then exactly eight iterations. -/
def crcUpd (c : Word) (b : Byte) : Word := crcSteps 8 (c ^^^ b.setWidth 32)

/-- `crc_seq(c, s)` (R133): fold over a byte sequence, first byte first. -/
def crcSeq (c : Word) : List Byte → Word
  | [] => c
  | b :: s => crcSeq (crcUpd c b) s

/-- `crc_word(c, v)` (R133): the four bytes of a word, most significant first. -/
def crcWord (c v : Word) : Word := crcSeq c (be32 v)

/-- `crc_fin(c)` (R134). -/
def crcFin (c : Word) : Word := c ^^^ 0xFFFFFFFF#32

/-- `block_crc(tag, p)` (R136): the checksum over be32(tag) ++ p. -/
def blockCrc (tag : Word) (p : List Byte) : Word := crcFin (crcSeq crcInitValue (be32 tag ++ p))

/-- CRC_INIT, R140. -/
def execCrcInit (s : State) : Host.Outcome State Fault Refusal :=
  .next (State.completeOk { s with crc := crcInitValue })

/-- CRC_BYTE imm8, R141. -/
def execCrcByte (imm8 : Byte) (s : State) : Host.Outcome State Fault Refusal :=
  .next (State.completeOk { s with crc := crcUpd s.crc imm8 })

/-- CRC_WORD, R142. -/
def execCrcWord (s : State) : Host.Outcome State Fault Refusal :=
  .next (State.completeOk { s with crc := crcWord s.crc s.arg })

/-- CRC_BUF src, len, R143. No rule gives a LEN above the buffer's bound an effect at completion (log 6). -/
def execCrcBuf (src : Buf) (len : BitVec 16) (s : State) : Host.Outcome State Fault Refusal :=
  if lenFits src len then
    .next (State.completeOk { s with crc := crcSeq s.crc (s.bufBytes src (lenOperand len)) })
  else .refused .lengthOutOfRange

/-- CRC_FINAL, R144. -/
def execCrcFinal (s : State) : Host.Outcome State Fault Refusal :=
  .next (State.completeOk { s with res := crcFin s.crc })

/-- CRC_BLOCK src, len, R145: the CRC register is neither read nor written (log 6 on a LEN above the bound). -/
def execCrcBlock (src : Buf) (len : BitVec 16) (s : State) : Host.Outcome State Fault Refusal :=
  if lenFits src len then
    .next (State.completeOk { s with res := blockCrc s.arg (s.bufBytes src (lenOperand len)) })
  else .refused .lengthOutOfRange

end Sys2Proof.Machine
end

