-- ==== Sys2Proof/Machine/Deflate.lean ====
section
/-! DEFINITION. The deflate kernel (42_deflate.md): DFL9 as R168 writes it, Adler-32 (R165), and the DEFLATE command
(R160). The spec takes the stream format from general knowledge and says so (log 12). -/

namespace Sys2Proof.Machine

/-- `put(v, k)` of R168: a header field, least significant bit first (R163). -/
def putField (v k : Nat) : List Bool := (List.range k).map v.testBit

/-- `putc(c, k)` of R168: a Huffman code, most significant bit first (R163). -/
def putCode (c k : Nat) : List Bool := (putField c k).reverse

/-- The fixed literal code of a byte (R164): 8 bits up to 143, 9 bits above. -/
def putLiteral (x : Byte) : List Bool :=
  if x.toNat ≤ 143 then putCode (0x30 + x.toNat) 8 else putCode (0x190 + (x.toNat - 144)) 9

/-- The bits of the one block (R164): BFINAL = 1, BTYPE = 1, a literal per byte, end of block. -/
def blockBits (input : List Byte) : List Bool :=
  putField 1 1 ++ (putField 1 2 ++ (input.flatMap putLiteral ++ putCode 0 7))

/-- Zero bits up to the next byte boundary (R163). -/
def padBits (bits : List Bool) : List Bool :=
  bits ++ List.replicate ((8 - bits.length % 8) % 8) false

/-- A byte from its eight bits, least significant first (R163). -/
def byteOfBits (b0 b1 b2 b3 b4 b5 b6 b7 : Bool) : Byte :=
  BitVec.ofBool b7 ++ BitVec.ofBool b6 ++ BitVec.ofBool b5 ++ BitVec.ofBool b4 ++
    BitVec.ofBool b3 ++ BitVec.ofBool b2 ++ BitVec.ofBool b1 ++ BitVec.ofBool b0

/-- Bits packed into bytes, eight at a time (R163); bits short of a byte are not reached after padding. -/
def packBytes : List Bool → List Byte
  | b0 :: b1 :: b2 :: b3 :: b4 :: b5 :: b6 :: b7 :: rest => byteOfBits b0 b1 b2 b3 b4 b5 b6 b7 :: packBytes rest
  | _ => []

/-- The running sums of Adler-32 (R165), from `a` and `b`. -/
def adlerSums (a b : Nat) : List Byte → Nat × Nat
  | [] => (a, b)
  | x :: xs =>
    let a' := (a + x.toNat) % 65521
    adlerSums a' ((b + a') % 65521) xs

/-- `adler32(in)` (R165): b in bits [31:16], a in bits [15:0]. -/
def adler32 (input : List Byte) : Word :=
  let sums := adlerSums 1 0 input
  BitVec.ofNat 16 sums.2 ++ BitVec.ofNat 16 sums.1

/-- `deflate_data` of R161: the block's bits, padded and packed. -/
def deflateData (input : List Byte) : List Byte := packBytes (padBits (blockBits input))

/-- `DFL9(in)` (R168): header 78 DA, the block, the Adler-32 of the input most significant byte first. -/
def dfl9 (input : List Byte) : List Byte :=
  [0x78#8, 0xDA#8] ++ deflateData input ++ be32 (adler32 input)

/-- The completion of DEFLATE for an output buffer of `capacity` bytes and the kernel's output (R160): OUT_OVERFLOW
with no byte and not OLEN written where it does not fit, else OBUF[0..L) and OLEN. -/
def State.deflateInto (s : State) (capacity : Nat) (out : List Byte) : State :=
  if capacity < out.length then s.completeErr .outOverflow
  else State.completeOk { s.storeBytes (bufBase .obuf) out with olen := BitVec.ofNat 32 out.length }

/-- DEFLATE len, R160. No rule defines a compressed form of an input above 4 bytes (93_implementation_defined.md U12,
log 6). -/
def execDeflate (len : BitVec 16) (s : State) : Host.Outcome State Fault Refusal :=
  if deflateLenFits len then
    .next (s.deflateInto Config.obufBytes (dfl9 (s.bufBytes .ibuf (lenOperand len))))
  else .refused .lengthOutOfRange

end Sys2Proof.Machine
end

