-- ==== Sys2Proof/Machine/Dispatch.lean ====
section
/-! DEFINITION. The meaning of each command: what its completion step does (60_exceptions.md R194). -/

namespace Sys2Proof.Machine

def exec (i : Instr) (s : State) : Host.Outcome State Fault Refusal :=
  match i with
  | .nop => Sys2Proof.Machine.execNop s
  | .bswap => Sys2Proof.Machine.execBswap s
  | .crcInit => Sys2Proof.Machine.execCrcInit s
  | .crcByte imm8 => Sys2Proof.Machine.execCrcByte imm8 s
  | .crcWord => Sys2Proof.Machine.execCrcWord s
  | .crcBuf src len => Sys2Proof.Machine.execCrcBuf src len s
  | .crcFinal => Sys2Proof.Machine.execCrcFinal s
  | .crcBlock src len => Sys2Proof.Machine.execCrcBlock src len s
  | .deflate len => Sys2Proof.Machine.execDeflate len s

end Sys2Proof.Machine
end

