-- ==== Sys2Proof/Machine/Bus.lean ====
section
/-! DEFINITION. The register window: its address map (10_state.md R21, 20_memory.md R65) and the two host accesses
MemRead and MemWrite (20_memory.md R63, R64). -/

namespace Sys2Proof.Machine

/-- The nine registers of 10_state.md R21. -/
inductive Reg where
  | id
  | caps
  | ctrl
  | status
  | cmd
  | arg
  | res
  | crc
  | olen
deriving DecidableEq, Repr

/-- The register map of 10_state.md R21. -/
def regMap : List (Nat × Reg) :=
  [(0x000, .id), (0x004, .caps), (0x008, .ctrl), (0x00C, .status), (0x010, .cmd), (0x014, .arg), (0x018, .res),
    (0x01C, .crc), (0x020, .olen)]

/-- What lives at an aligned window offset. -/
inductive Place where
  | reg (r : Reg)
  | ibuf
  | obuf
  | reserved
deriving DecidableEq, Repr

/-- The address map (10_state.md R21, 20_memory.md R62, R65). -/
def place (off : Nat) : Place :=
  match regMap.lookup off with
  | some r => .reg r
  | none =>
    if 0x100 ≤ off ∧ off < 0x120 then .ibuf
    else if 0x200 ≤ off ∧ off < 0x240 then .obuf
    else .reserved

/-- The host address of a window offset (20_memory.md R60; BASE_ADDR is OPEN, log 10). -/
def hostAddress (off : Offset) : Nat := Config.baseAddr + off.toNat

/-- The value a read of a register returns (10_state.md R22 to R31). -/
def State.readReg (s : State) : Reg → Word
  | .id => Config.idValue
  | .caps => Config.capsValue
  | .ctrl => s.ctrlWord
  | .status => s.statusWord
  | .cmd => s.cmd
  | .arg => s.arg
  | .res => s.res
  | .crc => s.crc
  | .olen => s.olen

/-- Registers a host may write (20_memory.md R64, R66). -/
def Reg.writable : Reg → Bool
  | .ctrl | .status | .cmd | .arg | .crc => true
  | .id | .caps | .res | .olen => false

/-- Registers whose writes are rejected while PEND = 1 (10_state.md R37). -/
def Reg.busyGuarded : Reg → Bool
  | .cmd | .arg | .crc => true
  | .id | .caps | .ctrl | .status | .res | .olen => false

/-- The write effect of a register (10_state.md R24, R25, R27, R28, R30). A read-only register has none. -/
def State.writeReg (s : State) (v : Word) : Reg → State
  | .ctrl => s.writeCtrl v
  | .status => s.writeStatus v
  | .cmd => s.submit v
  | .arg => { s with arg := v }
  | .crc => { s with crc := v }
  | .id | .caps | .res | .olen => s

/-- `MemRead(off, 4)` of 20_memory.md R63. It changes no state. -/
def memRead (s : State) (off : Offset) : Word × Resp :=
  if off.toNat % 4 ≠ 0 then (0#32, .buserr)
  else
    match place off.toNat with
    | .reg r => (s.readReg r, .okay)
    | .ibuf => (s.readWord off.toNat, .okay)
    | .obuf => (s.readWord off.toNat, .okay)
    | .reserved => (0#32, .buserr)

/-- `MemWrite(off, 4, v, strb)` of 20_memory.md R64. -/
def memWrite (s : State) (off : Offset) (v : Word) (strb : BitVec 4) : State × Resp :=
  if off.toNat % 4 ≠ 0 then (s, .buserr)
  else
    match place off.toNat with
    | .reg r =>
      if r.writable = false ∨ strb ≠ 0b1111#4 then (s, .buserr)
      else if r.busyGuarded && s.pend then (s.raiseErr .busy, .okay)
      else (s.writeReg v r, .okay)
    | .ibuf => if s.pend then (s.raiseErr .busy, .okay) else (s.writeLanes off.toNat v strb, .okay)
    | .obuf => (s, .buserr)
    | .reserved => (s, .buserr)

end Sys2Proof.Machine
end

