-- ==== Sys2Proof/Machine/HostAgent.lean ====
section
/-! DEFINITION. The host: one operation of its program per turn (30_encoding.md R98), and the pseudo-instructions of
the host notation with their expansions (R99). -/

namespace Sys2Proof.Machine

/-- The register names of R98 stand for their offsets. -/
def offCtrl : Offset := 0x008#12
/-- STATUS = 0x00C. -/
def offStatus : Offset := 0x00C#12
/-- CMD = 0x010. -/
def offCmd : Offset := 0x010#12
/-- ARG = 0x014. -/
def offArg : Offset := 0x014#12
/-- RES = 0x018. -/
def offRes : Offset := 0x018#12
/-- CRC = 0x01C. -/
def offCrc : Offset := 0x01C#12
/-- OLEN = 0x020. -/
def offOlen : Offset := 0x020#12
/-- IBUF = 0x100. -/
def offIbuf : Offset := 0x100#12
/-- OBUF = 0x200. -/
def offObuf : Offset := 0x200#12

/-- `W off, v` is `MemWrite(off, 4, v, 0b1111)` (R98). -/
def HostOp.w (off : Offset) (v : Word) : HostOp := .write off v 0b1111#4

/-- The host performs one operation: one bus access, its reply, and its next place in the program. -/
def State.hostDo (s : State) : HostOp → State
  | .read off => { s with reply := some (.read (memRead s off).1 (memRead s off).2), hpc := s.hpc + 1 }
  | .write off v strb =>
    { (memWrite s off v strb).1 with reply := some (.write (memWrite s off v strb).2), hpc := s.hpc + 1 }
  | .bitSet off n target =>
    { s with
      reply := some (.read (memRead s off).1 (memRead s off).2)
      hpc := if (memRead s off).1.getLsbD n then target else s.hpc + 1 }

/-- The host's turn: its program's next operation, or nothing where the program has ended (log 11). -/
def State.hostTurn (s : State) : State :=
  match s.prog[s.hpc]? with
  | some op => s.hostDo op
  | none => s

/-- A line of a host program: a host operation or a pseudo-instruction of R99. -/
inductive HostLine where
  | op (o : HostOp)
  | wait
  | issue (command : Instr)
  | ldarg (v : Word)
  | clrst
  | crc32 (src : Buf) (len : BitVec 16)
  | chunkcrc (tag : Word) (src : Buf) (len : BitVec 16)
  | tobe (v : Word)
deriving DecidableEq, Repr

/-- `WAIT` at place `pos`: poll until BUSY = 0 (R99). -/
def expandWait (pos : Nat) : List HostOp := [.bitSet offStatus 0 pos]

/-- `ISSUE <command>` at place `pos`: write its word to CMD, then WAIT (R99). -/
def expandIssue (pos : Nat) (command : Instr) : List HostOp :=
  .w offCmd (encode command) :: expandWait (pos + 1)

/-- The expansion of a line that stands at place `pos` (R99). -/
def HostLine.expand (pos : Nat) : HostLine → List HostOp
  | .op o => [o]
  | .wait => expandWait pos
  | .issue command => expandIssue pos command
  | .ldarg v => [.w offArg v]
  | .clrst => [.w offStatus 0x00000006#32]
  | .crc32 src len =>
    expandIssue pos .crcInit ++ expandIssue (pos + 2) (.crcBuf src len) ++ expandIssue (pos + 4) .crcFinal
  | .chunkcrc tag src len => .w offArg tag :: expandIssue (pos + 1) (.crcBlock src len)
  | .tobe v => .w offArg v :: expandIssue (pos + 1) .bswap

/-- A host program from its lines, the first at place `pos`. -/
def expandProgram (pos : Nat) : List HostLine → List HostOp
  | [] => []
  | l :: ls => l.expand pos ++ expandProgram (pos + (l.expand pos).length) ls

end Sys2Proof.Machine
end

