-- ==== Sys2Proof/Machine/Engine.lean ====
section
/-! DEFINITION. The engine's one step, `complete` (60_exceptions.md R194), and who makes the next event. -/

namespace Sys2Proof.Machine

/-- `complete()` of R194: decode CMD and run the command's meaning. CMD was accepted, so it decodes (log 7). -/
def State.complete (s : State) : Host.Outcome State Fault Refusal :=
  match decode s.cmd with
  | .ok i => exec i s
  | .error _ => .fault .inFlightNotDecodable

/-- The engine's turn: `complete` is enabled exactly when PEND = 1 (R194); where it is not, the turn passes (log 3). -/
def State.engineTurn (s : State) : Host.Outcome State Fault Refusal :=
  if s.pend then s.complete else .next s

/-- Who makes the next event, and the schedule after it. Past the listed turns, each round has `Config.busyLatency` events
that the host or a hardware reset makes, and then one that is the engine's where a command is in flight: the weak
fairness of R194, and no bound (log 2, log 19). -/
def State.nextTurn (s : State) : Turn × Schedule :=
  match s.sched.listed with
  | turn :: rest => (turn, { s.sched with listed := rest })
  | [] =>
    if s.sched.spent < Config.busyLatency s.sched.round then
      (if Config.resetComes s.sched.round s.sched.spent then .hardwareReset else .host,
        { s.sched with spent := s.sched.spent + 1 })
    else (if s.pend then .engine else .host, { s.sched with round := s.sched.round + 1, spent := 0 })

/-- One event of the total order of 20_memory.md R74. -/
def State.runTurn (s : State) : Turn → Host.Outcome State Fault Refusal
  | .host => .next s.hostTurn
  | .engine => s.engineTurn
  | .hardwareReset => .next s.hardwareReset

end Sys2Proof.Machine
end

