-- ==== Sys2Proof/Machine/Step.lean ====
section
/-! DEFINITION. One step is one event: a host access, a completion step or a hardware reset. -/

namespace Sys2Proof.Machine

/-- Take the next turn of the schedule and run it. -/
def step (s : State) : Host.Outcome State Fault Refusal :=
  State.runTurn { s with sched := s.nextTurn.2 } s.nextTurn.1

/-- The state in which a table word has been accepted as the in-flight command (60_exceptions.md R192) and the engine
makes the next event, so that the very next step runs exactly it (log 1). -/
def State.withFetchWord (s : State) (nbits w : Nat) : State :=
  { s.accept (tableWord nbits w) with sched := { s.sched with listed := .engine :: s.sched.listed } }

end Sys2Proof.Machine
end

