-- ==== Sys2Proof/Inflate.lean ====
section
/-! DEFINITION. A reader of zlib streams, written from the stream format of 42_deflate.md R161 to R165 and not from the
kernel: what R170's "standard inflate" does with a stream that is one fixed-Huffman block of literals. It is no part of
the hardware (00_scope.md R5 leaves decompression out); only statements use it. It refuses every stream it does not
read in full: another header, a block that is not final or not fixed-Huffman, a length code, a wrong trailer. -/

namespace Sys2Proof.Inflate

/-- The bits of a byte sequence, least significant bit of each byte first (R163). -/
def bitsOf (bytes : List Byte) : List Bool := bytes.flatMap fun b => (List.range 8).map b.getLsbD

/-- The next `k` bits read as a Huffman code, most significant bit first (R163), after the bits already read. -/
def readCode : Nat → Nat → List Bool → Option (Nat × List Bool)
  | 0, acc, bits => some (acc, bits)
  | _ + 1, _, [] => none
  | k + 1, acc, b :: bits => readCode k (2 * acc + b.toNat) bits

/-- The next symbol of the fixed code (R164): 7 bits for 256 to 279, 8 bits for 0 to 143 and 280 to 287, 9 bits for
144 to 255. -/
def readSymbol (bits : List Bool) : Option (Nat × List Bool) :=
  match readCode 7 0 bits with
  | none => none
  | some (c7, rest7) =>
    if c7 < 24 then some (256 + c7, rest7)
    else
      match readCode 1 c7 rest7 with
      | none => none
      | some (c8, rest8) =>
        if c8 < 192 then some (c8 - 48, rest8)
        else if c8 < 200 then some (280 + (c8 - 192), rest8)
        else
          match readCode 1 c8 rest8 with
          | none => none
          | some (c9, rest9) => some (144 + (c9 - 400), rest9)

/-- Literals up to the end-of-block code, and the bits after it. A length code is refused. -/
def readLiterals : Nat → List Bool → Option (List Byte × List Bool)
  | 0, _ => none
  | fuel + 1, bits =>
    match readSymbol bits with
    | none => none
    | some (sym, rest) =>
      if sym < 256 then
        match readLiterals fuel rest with
        | none => none
        | some (data, after) => some (BitVec.ofNat 8 sym :: data, after)
      else if sym = 256 then some ([], rest)
      else none

/-- The header check of R162: method 8, window at most 32 KiB, no dictionary, (CMF·256 + FLG) mod 31 = 0. -/
def headerOk (cmf flg : Byte) : Bool :=
  cmf.toNat % 16 == 8 && decide (cmf.toNat / 16 ≤ 7) && !flg.getLsbD 5 && (cmf.toNat * 256 + flg.toNat) % 31 == 0

/-- Read a zlib stream: header, one final fixed-Huffman block, zero padding to a byte boundary, and a trailer equal to
the Adler-32 of what was read. -/
def inflate : List Byte → Option (List Byte)
  | cmf :: flg :: body =>
    if headerOk cmf flg then
      match bitsOf body with
      | true :: true :: false :: bits =>
        match readLiterals bits.length bits with
        | none => none
        | some (data, after) =>
          let pad := after.length % 8
          if after.take pad = List.replicate pad false ∧
              after.drop pad = bitsOf (Machine.be32 (Machine.adler32 data)) then some data
          else none
      | _ => none
    else none
  | _ => none

end Sys2Proof.Inflate
end

