-- ==== Sys2Proof/Safety.lean ====
section
/-! DEFINITION. The terms the statements use: the invariant of the machine, the opcode table as data, the causes of an
error, and running a list of commands. -/

namespace Sys2Proof.Safety

open Sys2Proof.Machine

/-- What every step keeps: the four items of 60_exceptions.md R196, one clause more on ECODE, that CMD holds a word that
decodes, and the model's own canonical form of buffer memory (log 5). -/
structure Inv (s : State) : Prop where
  /-- R196 item 1. -/
  busy_not_done : s.pend = true → s.done = false
  /-- R196 item 2. -/
  no_err_no_code : s.err = false → s.ecode = 0#4
  /-- ECODE holds the first error's code while ERR = 1 (10_state.md R25), and no error has code 0 (R190). -/
  err_has_code : s.err = true → s.ecode ≠ 0#4
  /-- R196 item 3. -/
  code_legal : s.ecode.toNat ≤ 5
  /-- R196 item 4. -/
  olen_legal : s.olen.toNat ∈ [0, 8, 9, 10, 11, 12]
  /-- CMD holds a word that was accepted, or its reset value (10_state.md R27). -/
  cmd_decodes : ∃ i, decode s.cmd = .ok i
  /-- The model's own (log 5). -/
  mem_canonical : Memory.wf s.mem

/-- A row of the opcode map of 30_encoding.md R93. -/
structure Row where
  form : Form
  pattern : Word
  mask : Word
  /-- The command the row's fields spell. -/
  command : Word → Instr

/-- The opcode map of 30_encoding.md R93, as spec/opcode_table.json lists it. -/
def opcodeRows : List Row :=
  [⟨.n, 0x00000000#32, 0xFFFFFFFF#32, fun _ => .nop⟩,
    ⟨.n, 0x10000000#32, 0xFFFFFFFF#32, fun _ => .bswap⟩,
    ⟨.n, 0x20000000#32, 0xFFFFFFFF#32, fun _ => .crcInit⟩,
    ⟨.b, 0x30000000#32, 0xFFFFFF00#32, fun w => .crcByte (w.setWidth 8)⟩,
    ⟨.n, 0x40000000#32, 0xFFFFFFFF#32, fun _ => .crcWord⟩,
    ⟨.l, 0x50000000#32, 0xF7FF0000#32,
      fun w => .crcBuf (if w.getLsbD 27 then .obuf else .ibuf) (w.setWidth 16)⟩,
    ⟨.n, 0x60000000#32, 0xFFFFFFFF#32, fun _ => .crcFinal⟩,
    ⟨.l, 0x70000000#32, 0xF7FF0000#32,
      fun w => .crcBlock (if w.getLsbD 27 then .obuf else .ibuf) (w.setWidth 16)⟩,
    ⟨.d, 0x80000000#32, 0xFFFF0000#32, fun w => .deflate (w.setWidth 16)⟩]

/-- OP = w[31:28] as a number. -/
def opOf (w : Word) : Nat := w.toNat / 2 ^ 28

/-- The must-be-zero bits of an assigned opcode, by 30_encoding.md R91. -/
def mbzOf (op : Nat) : Word :=
  if op = 3 then 0x0FFFFF00#32
  else if op = 5 ∨ op = 7 then 0x07FF0000#32
  else if op = 8 then 0x0FFF0000#32
  else 0x0FFFFFFF#32

/-- LEN exceeds its bound, by 60_exceptions.md R190 (code 4). -/
def lenTooLong (w : Word) : Prop :=
  ((opOf w = 5 ∨ opOf w = 7) ∧ w.getLsbD 27 = false ∧ 32 < w.toNat % 2 ^ 16) ∨
  ((opOf w = 5 ∨ opOf w = 7) ∧ w.getLsbD 27 = true ∧ 64 < w.toNat % 2 ^ 16) ∨
  (opOf w = 8 ∧ 4 < w.toNat % 2 ^ 16)

/-- A cause of an error at a CMD write, by the table of 60_exceptions.md R190. -/
def causes (s : State) (w : Word) : ErrCode → Prop
  | .busy => s.pend = true
  | .illegalOp => 9 ≤ opOf w
  | .rsvdField => opOf w ≤ 8 ∧ w &&& mbzOf (opOf w) ≠ 0#32
  | .lenRange => lenTooLong w
  | .outOverflow => False

/-- The two errors every command can meet at its CMD write, by the Errors lines of 40_byteorder.md to 42_deflate.md: BUSY
while PEND = 1, and RSVD_FIELD for a set must-be-zero bit of a word with the same opcode. -/
def rejects (pattern mbz : Word) : Prop :=
  (∀ s w, s.pend = true → opOf w = opOf pattern →
    memWrite s offCmd w 0b1111#4 = (s.raiseErr .busy, .okay)) ∧
  (∀ s w, s.pend = false → opOf w = opOf pattern → w &&& mbz ≠ 0#32 →
    memWrite s offCmd w 0b1111#4 = (s.raiseErr .rsvdField, .okay))

/-- The word is accepted at a CMD write: the response is OKAY, CMD takes it, BUSY = 1, DONE = 0, and nothing else
changes (60_exceptions.md R192, R195). -/
def accepts (w : Word) : Prop :=
  ∀ s, s.pend = false →
    memWrite s offCmd w 0b1111#4 = ({ s with cmd := w, pend := true, done := false }, .okay)

/-- The word is rejected with LEN_RANGE at a CMD write. -/
def rejectsLength (w : Word) : Prop :=
  ∀ s, s.pend = false → memWrite s offCmd w 0b1111#4 = (s.raiseErr .lenRange, .okay)

/-- Every register, PEND and every STATUS field at its value after a reset (70_reset_and_hazards.md R224). -/
def registersReset (s : State) : Prop :=
  s.ctrlWord = 0x00000000#32 ∧ s.statusWord = 0x00000000#32 ∧ s.cmd = 0x00000000#32 ∧ s.arg = 0x00000000#32 ∧
  s.res = 0x00000000#32 ∧ s.crc = 0xFFFFFFFF#32 ∧ s.olen = 0x00000000#32 ∧ s.pend = false ∧ s.irq = false

/-- The commands of a list completed one after another. -/
def execAll : List Instr → State → Host.Outcome State Fault Refusal
  | [], s => .next s
  | i :: is, s =>
    match exec i s with
    | .next t => execAll is t
    | .fault r => .fault r
    | .refused r => .refused r

/-- The host makes the next event and it is this operation. -/
def hostNext (s : State) (op : HostOp) : Prop := s.nextTurn.1 = .host ∧ s.prog[s.hpc]? = some op

/-- The bit-serial CRC of 41_crc.md R130 in normal form: polynomial 0x04C11DB7, the register's top bit against the
next message bit. -/
def normalStep (c : Word) (bit : Bool) : Word :=
  if c.msb != bit then (c <<< 1) ^^^ 0x04C11DB7#32 else c <<< 1

/-- A byte fed to the normal form, least significant bit first (R130). -/
def normalUpd (c : Word) (b : Byte) : Word := ((List.range 8).map b.getLsbD).foldl normalStep c

/-- The Adler-32 sums without reduction (42_deflate.md R165). -/
def plainSums (a b : Nat) : List Byte → Nat × Nat
  | [] => (a, b)
  | x :: xs => plainSums (a + x.toNat) (b + (a + x.toNat)) xs

end Sys2Proof.Safety
end

