-- ==== Sys2Proof/Certificates/Slice0/Obligations.lean ====
section
/-! DEFINITION. The statements about the P1X1 engine, each from a rule of spec/ that its docstring names. -/

open Sys2Proof Sys2Proof.Machine Sys2Proof.Safety

/-! ## Encoding -/

/-- Words written out from 30_encoding.md R93 and R97, and from 95_test_vectors.md 2.4, decode to what they spell. -/
def Obligations.WrittenWordsDecode : Prop :=
  decode 0x00000000#32 = .ok .nop ∧
  decode 0x10000000#32 = .ok .bswap ∧
  decode 0x20000000#32 = .ok .crcInit ∧
  decode 0x300000FF#32 = .ok (.crcByte 0xFF#8) ∧
  decode 0x40000000#32 = .ok .crcWord ∧
  decode 0x50000020#32 = .ok (.crcBuf .ibuf 32#16) ∧
  decode 0x58000040#32 = .ok (.crcBuf .obuf 64#16) ∧
  decode 0x60000000#32 = .ok .crcFinal ∧
  decode 0x7000000D#32 = .ok (.crcBlock .ibuf 13#16) ∧
  decode 0x7800000C#32 = .ok (.crcBlock .obuf 12#16) ∧
  decode 0x80000004#32 = .ok (.deflate 4#16)

/-- 30_encoding.md R93 whole: a word spells a command exactly when it matches the command's row and its LEN is in range;
each row's mask is OP and its form's must-be-zero bits; no word matches two rows; OP 0x9 to 0xF match none. -/
def Obligations.DecodeIsTheOpcodeMap : Prop :=
  (∀ w i, decode w = .ok i ↔
    ∃ r ∈ opcodeRows, w &&& r.mask = r.pattern ∧ r.command w = i ∧ ¬ lenTooLong w) ∧
  (∀ r ∈ opcodeRows, r.mask = 0xF0000000#32 ||| r.form.mustBeZero) ∧
  opcodeRows.Pairwise (fun r q => ∀ w : Word, ¬ (w &&& r.mask = r.pattern ∧ w &&& q.mask = q.pattern)) ∧
  (∀ w : Word, 9 ≤ opOf w → ∀ r ∈ opcodeRows, w &&& r.mask ≠ r.pattern)

/-- Every well-formed command is read back from its word with every operand (30_encoding.md R93, R94). -/
def Obligations.DecodeOfEncodeIsTheCommand : Prop :=
  ∀ i : Instr, i.wf = true → decode (encode i) = .ok i

/-- A word that decodes is the word of the command it decodes to, which is well formed: no bit of it is ignored
(30_encoding.md R94, R95). -/
def Obligations.EncodeOfDecodeIsTheWord : Prop :=
  ∀ (w : Word) (i : Instr), decode w = .ok i → encode i = w ∧ i.wf = true

/-- 30_encoding.md R94 whole: the checks in their order, total on all words, and the fields of the command returned. -/
def Obligations.DecodeChecksInOrder : Prop :=
  ∀ w : Word,
    (9 ≤ opOf w → decode w = .error .illegalOp) ∧
    (opOf w ≤ 8 → w &&& mbzOf (opOf w) ≠ 0#32 → decode w = .error .rsvdField) ∧
    (opOf w ≤ 8 → w &&& mbzOf (opOf w) = 0#32 → lenTooLong w → decode w = .error .lenRange) ∧
    (opOf w ≤ 8 → w &&& mbzOf (opOf w) = 0#32 → ¬ lenTooLong w →
      ∃ r ∈ opcodeRows, opOf r.pattern = opOf w ∧ decode w = .ok (r.command w))

/-- 30_encoding.md R97: every line of the assembler syntax to its word; an imm8 above 255 and a len above 65535 are
refused; a len that fits in 16 bits but exceeds its bound assembles, and the decoder rejects it. That a numeral is given
by its value is the model's choice (log 16). -/
def Obligations.AssemblerWritesTheTableWords : Prop :=
  assemble "NOP" [] = some 0x00000000#32 ∧
  assemble "BSWAP" [] = some 0x10000000#32 ∧
  assemble "CRC_INIT" [] = some 0x20000000#32 ∧
  assemble "CRC_WORD" [] = some 0x40000000#32 ∧
  assemble "CRC_FINAL" [] = some 0x60000000#32 ∧
  (∀ n, n ≤ 255 → assemble "CRC_BYTE" [.num n] = some (BitVec.ofNat 32 (0x30000000 + n))) ∧
  (∀ n, 255 < n → assemble "CRC_BYTE" [.num n] = none) ∧
  (∀ n, n ≤ 65535 →
    assemble "CRC_BUF" [.buf .ibuf, .num n] = some (BitVec.ofNat 32 (0x50000000 + n)) ∧
    assemble "CRC_BUF" [.buf .obuf, .num n] = some (BitVec.ofNat 32 (0x58000000 + n)) ∧
    assemble "CRC_BLOCK" [.buf .ibuf, .num n] = some (BitVec.ofNat 32 (0x70000000 + n)) ∧
    assemble "CRC_BLOCK" [.buf .obuf, .num n] = some (BitVec.ofNat 32 (0x78000000 + n)) ∧
    assemble "DEFLATE" [.num n] = some (BitVec.ofNat 32 (0x80000000 + n))) ∧
  (∀ n src, 65535 < n →
    assemble "CRC_BUF" [.buf src, .num n] = none ∧
    assemble "CRC_BLOCK" [.buf src, .num n] = none ∧
    assemble "DEFLATE" [.num n] = none) ∧
  (∀ i : Instr, i.wf = false → decode (encode i) = .error .lenRange)

/-! ## The register window -/

/-- 20_memory.md R63 whole: MemRead by offset, at every offset of the window; a read by the host changes no state of
the engine. That the host's place moves on and the reply is recorded, after a BUSERR too, is the model's choice (logs 1
and 9). -/
def Obligations.ReadWindow : Prop :=
  (∀ (s : State) (off : Offset), off.toNat % 4 ≠ 0 → memRead s off = (0#32, .buserr)) ∧
  (∀ s : State,
    memRead s 0x000#12 = (0x504E4731#32, .okay) ∧ memRead s 0x004#12 = (0x00044020#32, .okay) ∧
    memRead s 0x008#12 = (s.ctrlWord, .okay) ∧ memRead s 0x00C#12 = (s.statusWord, .okay) ∧
    memRead s 0x010#12 = (s.cmd, .okay) ∧ memRead s 0x014#12 = (s.arg, .okay) ∧
    memRead s 0x018#12 = (s.res, .okay) ∧ memRead s 0x01C#12 = (s.crc, .okay) ∧
    memRead s 0x020#12 = (s.olen, .okay)) ∧
  (∀ (s : State) (off : Offset), off.toNat % 4 = 0 →
    (0x100 ≤ off.toNat ∧ off.toNat < 0x120 ∨ 0x200 ≤ off.toNat ∧ off.toNat < 0x240) →
    memRead s off =
      (s.readByte (off.toNat + 3) ++ s.readByte (off.toNat + 2) ++ s.readByte (off.toNat + 1) ++
        s.readByte off.toNat, .okay)) ∧
  (∀ (s : State) (off : Offset), off.toNat % 4 = 0 →
    (0x024 ≤ off.toNat ∧ off.toNat < 0x100 ∨ 0x120 ≤ off.toNat ∧ off.toNat < 0x200 ∨ 0x240 ≤ off.toNat) →
    memRead s off = (0#32, .buserr)) ∧
  (∀ (s : State) (off : Offset),
    s.hostDo (.read off) =
      { s with hpc := s.hpc + 1, reply := some (.read (memRead s off).1 (memRead s off).2) })

/-- 20_memory.md R64 whole: MemWrite by offset, strobes and PEND. The IBUF write names every byte of memory: a strobed
byte takes its lane, every other byte reads as before; no register and no other part of the state changes. -/
def Obligations.WriteWindow : Prop :=
  (∀ (s : State) (off : Offset) v strb, off.toNat % 4 ≠ 0 → memWrite s off v strb = (s, .buserr)) ∧
  (∀ (s : State) v strb, strb ≠ 0b1111#4 →
    ∀ off ∈ [offCtrl, offStatus, offCmd, offArg, offCrc], memWrite s off v strb = (s, .buserr)) ∧
  (∀ (s : State) v, s.pend = true →
    ∀ off ∈ [offCmd, offArg, offCrc], memWrite s off v 0b1111#4 = (s.raiseErr .busy, .okay)) ∧
  (∀ (s : State) v,
    memWrite s offCtrl v 0b1111#4 = (s.writeCtrl v, .okay) ∧
    memWrite s offStatus v 0b1111#4 = (s.writeStatus v, .okay)) ∧
  (∀ (s : State) v, s.pend = false →
    memWrite s offCmd v 0b1111#4 = (s.submit v, .okay) ∧
    memWrite s offArg v 0b1111#4 = ({ s with arg := v }, .okay) ∧
    memWrite s offCrc v 0b1111#4 = ({ s with crc := v }, .okay)) ∧
  (∀ (s : State) (off : Offset) v strb, off.toNat % 4 = 0 → 0x100 ≤ off.toNat → off.toNat < 0x120 →
    (s.pend = true → memWrite s off v strb = (s.raiseErr .busy, .okay)) ∧
    (s.pend = false →
      ∃ m, memWrite s off v strb = ({ s with mem := m }, .okay) ∧
        ∀ a, State.readByte { s with mem := m } a =
          if off.toNat ≤ a ∧ a < off.toNat + 4 ∧ strb.getLsbD (a - off.toNat) = true then
            v.extractLsb' (8 * (a - off.toNat)) 8
          else s.readByte a)) ∧
  (∀ (s : State) v strb,
    ∀ off ∈ [0x000#12, 0x004#12, offRes, offOlen], memWrite s off v strb = (s, .buserr)) ∧
  (∀ (s : State) (off : Offset) v strb, 0x024 ≤ off.toNat → ¬ (0x100 ≤ off.toNat ∧ off.toNat < 0x120) →
    memWrite s off v strb = (s, .buserr)) ∧
  (∀ (s : State) (off : Offset) v strb, (memWrite s off v strb).2 = .buserr → (memWrite s off v strb).1 = s)

/-- 20_memory.md R68: a strobed IBUF write followed by a word read of the same word returns the new byte in each strobed
lane and the old byte in the others. -/
def Obligations.StrobedWriteThenWordRead : Prop :=
  ∀ (s : State) (off : Offset) (v : Word) (strb : BitVec 4) (k : Nat),
    s.pend = false → off.toNat % 4 = 0 → 0x100 ≤ off.toNat → off.toNat < 0x120 → k < 4 →
    (memRead (memWrite s off v strb).1 off).1.extractLsb' (8 * k) 8 =
      if strb.getLsbD k = true then v.extractLsb' (8 * k) 8 else (memRead s off).1.extractLsb' (8 * k) 8

/-- 10_state.md R22 and R23 whole: ID and CAPS are constants in every state, ID is the ASCII bytes "PNG1" read as be32,
and the fields of CAPS report the parameters. -/
def Obligations.IdAndCapsAreConstants : Prop :=
  ∀ s : State,
    memRead s 0x000#12 = (Config.idValue, .okay) ∧ be32 Config.idValue = [0x50#8, 0x4E#8, 0x47#8, 0x31#8] ∧
    memRead s 0x004#12 = (0x00044020#32, .okay) ∧
    (0x00044020#32 : Word).extractLsb' 0 8 = BitVec.ofNat 8 Config.ibufBytes ∧
    (0x00044020#32 : Word).extractLsb' 8 8 = BitVec.ofNat 8 Config.obufBytes ∧
    (0x00044020#32 : Word).extractLsb' 16 8 = BitVec.ofNat 8 Config.dflInMax ∧
    (0x00044020#32 : Word).extractLsb' 24 8 = 0#8

/-- 10_state.md R24 whole: the fields of CTRL as read, its reset value, the soft reset a write of bit 31 performs and
the enables any other write stores, whether or not a command is in flight, and what the enables do to irq. -/
def Obligations.CtrlRegister : Prop :=
  State.reset.ctrlWord = 0x00000000#32 ∧
  (∀ s : State, s.ctrlWord.getLsbD 0 = s.ieDone ∧ s.ctrlWord.getLsbD 1 = s.ieErr ∧
    ∀ n, 2 ≤ n → s.ctrlWord.getLsbD n = false) ∧
  (∀ (s : State) (v : Word), v.getLsbD 31 = true →
    memWrite s offCtrl v 0b1111#4 = (s.softReset, .okay) ∧ s.softReset.ieDone = false ∧ s.softReset.ieErr = false) ∧
  (∀ (s : State) (v : Word), v.getLsbD 31 = false →
    memWrite s offCtrl v 0b1111#4 = ({ s with ieDone := v.getLsbD 0, ieErr := v.getLsbD 1 }, .okay)) ∧
  (∀ s : State, s.ieDone = true → s.done = true → s.irq = true) ∧
  (∀ s : State, s.ieErr = true → s.err = true → s.irq = true)

/-- 10_state.md R25: the fields of STATUS as read, its reset value, and the write-1-to-clear effect of a host write on
the whole state, whether or not a command is in flight. -/
def Obligations.StatusRegister : Prop :=
  State.reset.statusWord = 0x00000000#32 ∧
  (∀ s : State, s.statusWord.getLsbD 0 = s.pend ∧ s.statusWord.getLsbD 1 = s.done ∧
    s.statusWord.getLsbD 2 = s.err ∧ s.statusWord.getLsbD 3 = false ∧ s.statusWord.extractLsb' 4 4 = s.ecode ∧
    ∀ n, 8 ≤ n → s.statusWord.getLsbD n = false) ∧
  (∀ (s : State) (v : Word), memWrite s offStatus v 0b1111#4 =
    ({ s with
        done := s.done && !v.getLsbD 1
        err := s.err && !v.getLsbD 2
        ecode := if v.getLsbD 2 then 0#4 else s.ecode }, .okay))

/-- 10_state.md R26 whole: BUSY equals PEND in every state, and a host write to STATUS cannot change it. -/
def Obligations.BusyEqualsPend : Prop :=
  ∀ (s : State) (v : Word) (strb : BitVec 4),
    s.statusWord.getLsbD 0 = s.pend ∧ (memWrite s offStatus v strb).1.pend = s.pend

/-- 10_state.md R37 whole: while PEND = 1, writes to CMD, ARG, CRC and IBUF raise BUSY, answer OKAY and change none of
them; CTRL and STATUS writes take effect; no read is rejected; and RES, CRC, OLEN and OBUF keep their values until the
event that ends PEND. -/
def Obligations.WritesWhileBusyAreRejected : Prop :=
  ∀ s : State, s.pend = true →
    (∀ v, ∀ off ∈ [offCmd, offArg, offCrc], memWrite s off v 0b1111#4 = (s.raiseErr .busy, .okay)) ∧
    (∀ (off : Offset) v strb, off.toNat % 4 = 0 → 0x100 ≤ off.toNat → off.toNat < 0x120 →
      memWrite s off v strb = (s.raiseErr .busy, .okay)) ∧
    ((s.raiseErr .busy).cmd = s.cmd ∧ (s.raiseErr .busy).arg = s.arg ∧ (s.raiseErr .busy).crc = s.crc ∧
      (∀ a, (s.raiseErr .busy).readByte a = s.readByte a) ∧
      (s.err = false → (s.raiseErr .busy).ecode = 1#4)) ∧
    (∀ v, memWrite s offCtrl v 0b1111#4 = (s.writeCtrl v, .okay) ∧
      memWrite s offStatus v 0b1111#4 = (s.writeStatus v, .okay)) ∧
    (∀ off, (memRead s off).2 = (memRead { s with pend := false } off).2) ∧
    (∀ off, off ≠ offStatus → memRead s off = memRead { s with pend := false } off) ∧
    (∀ t, step s = .next t → t.pend = true →
      t.res = s.res ∧ t.crc = s.crc ∧ t.olen = s.olen ∧ ∀ i < 64, t.readByte (0x200 + i) = s.readByte (0x200 + i))

/-! ## Errors, acceptance and completion -/

/-- 60_exceptions.md R192 whole: what a full-strobe write to CMD does, and that an accepted command changes neither ERR
nor ECODE. -/
def Obligations.CommandAcceptance : Prop :=
  ∀ (s : State) (w : Word),
    (s.pend = true → memWrite s offCmd w 0b1111#4 = (s.raiseErr .busy, .okay)) ∧
    (∀ e, s.pend = false → decode w = .error e → memWrite s offCmd w 0b1111#4 = (s.raiseErr e, .okay)) ∧
    (∀ i, s.pend = false → decode w = .ok i →
      memWrite s offCmd w 0b1111#4 = ({ s with cmd := w, pend := true, done := false }, .okay))

/-- 60_exceptions.md R193 whole: DONE <- 0, ERR <- 1, ECODE keeps the first code since ERR was last 0, and everything else
stays: CTRL, PEND, CMD, ARG, RES, CRC, OLEN and every buffer byte. A completion that raises it ends PEND as well. -/
def Obligations.RaiseErrRecordsTheFirstCode : Prop :=
  ∀ (s : State) (e : ErrCode),
    (s.raiseErr e).done = false ∧ (s.raiseErr e).err = true ∧
    (s.err = false → (s.raiseErr e).ecode = e.code) ∧ (s.err = true → (s.raiseErr e).ecode = s.ecode) ∧
    (s.raiseErr e).pend = s.pend ∧ (s.raiseErr e).ctrlWord = s.ctrlWord ∧ (s.raiseErr e).cmd = s.cmd ∧
    (s.raiseErr e).arg = s.arg ∧ (s.raiseErr e).res = s.res ∧ (s.raiseErr e).crc = s.crc ∧
    (s.raiseErr e).olen = s.olen ∧ (∀ a, (s.raiseErr e).readByte a = s.readByte a) ∧
    s.completeErr e = { s.raiseErr e with pend := false }

/-- 60_exceptions.md R199: writing 1 to STATUS bit 2 clears ERR and ECODE and leaves PEND, the enables, the registers
and the buffers; the next error is then recorded under its own code; and ERR = 1 keeps no command from being accepted. -/
def Obligations.ErrorReturnClearsErrAndCode : Prop :=
  ∀ (s : State) (v : Word), v.getLsbD 2 = true →
    ∃ t, memWrite s offStatus v 0b1111#4 = (t, .okay) ∧ t.err = false ∧ t.ecode = 0#4 ∧ t.pend = s.pend ∧
      t.ctrlWord = s.ctrlWord ∧ t.cmd = s.cmd ∧ t.arg = s.arg ∧ t.res = s.res ∧ t.crc = s.crc ∧ t.olen = s.olen ∧
      (∀ a, t.readByte a = s.readByte a) ∧ (∀ e, (t.raiseErr e).ecode = e.code) ∧
      (∀ (u : State) i w, u.err = true → u.pend = false → decode w = .ok i →
        memWrite u offCmd w 0b1111#4 = ({ u with cmd := w, pend := true, done := false }, .okay))

/-- 60_exceptions.md R197: of several causes at a CMD write, by the table of R190, the lowest-numbered is raised; with
no cause the word is accepted. The numbers of the table are those STATUS[7:4] reads after the first error. The rule's two
examples. -/
def Obligations.LowestErrorCodeWins : Prop :=
  (∀ (s : State) (w : Word) (e : ErrCode), causes s w e →
    (∀ e', causes s w e' → e.code.toNat ≤ e'.code.toNat) →
    memWrite s offCmd w 0b1111#4 = (s.raiseErr e, .okay)) ∧
  (∀ (s : State) (w : Word), (∀ e, ¬ causes s w e) →
    memWrite s offCmd w 0b1111#4 = ({ s with cmd := w, pend := true, done := false }, .okay)) ∧
  (∀ s : State, s.err = false →
    (s.raiseErr .busy).statusWord.extractLsb' 4 4 = 1#4 ∧
    (s.raiseErr .illegalOp).statusWord.extractLsb' 4 4 = 2#4 ∧
    (s.raiseErr .rsvdField).statusWord.extractLsb' 4 4 = 3#4 ∧
    (s.raiseErr .lenRange).statusWord.extractLsb' 4 4 = 4#4 ∧
    (s.raiseErr .outOverflow).statusWord.extractLsb' 4 4 = 5#4) ∧
  (ErrCode.busy.code = 1#4 ∧ ErrCode.illegalOp.code = 2#4 ∧ ErrCode.rsvdField.code = 3#4 ∧
    ErrCode.lenRange.code = 4#4 ∧ ErrCode.outOverflow.code = 5#4) ∧
  decode 0x9FFFFFFF#32 = .error .illegalOp ∧ decode 0x58FF0041#32 = .error .rsvdField

/-- 60_exceptions.md R195: BUSY, DONE, ERR and ECODE after each event of the table: acceptance, rejection, rejection
while busy, completion without error, completion with OUT_OVERFLOW, and the two STATUS writes. -/
def Obligations.StatusAfterEachEvent : Prop :=
  (∀ (s : State) w i, s.pend = false → decode w = .ok i →
    ∃ t, memWrite s offCmd w 0b1111#4 = (t, .okay) ∧
      t.pend = true ∧ t.done = false ∧ t.err = s.err ∧ t.ecode = s.ecode) ∧
  (∀ (s : State) w e, s.pend = false → decode w = .error e →
    ∃ t, memWrite s offCmd w 0b1111#4 = (t, .okay) ∧
      t.pend = false ∧ t.done = false ∧ t.err = true ∧ (s.err = false → t.ecode = e.code) ∧
      (s.err = true → t.ecode = s.ecode)) ∧
  (∀ (s : State) w, s.pend = true →
    ∃ t, memWrite s offCmd w 0b1111#4 = (t, .okay) ∧
      t.pend = true ∧ t.done = false ∧ t.err = true ∧ (s.err = false → t.ecode = 1#4) ∧
      (s.err = true → t.ecode = s.ecode)) ∧
  (∀ (s : State) (i : Instr), i.wf = true →
    ∃ t, exec i s = .next t ∧ t.pend = false ∧ t.done = true ∧ t.err = s.err ∧ t.ecode = s.ecode) ∧
  (∀ (s : State) capacity (out : List Byte), capacity < out.length →
    (s.deflateInto capacity out).pend = false ∧ (s.deflateInto capacity out).done = false ∧
    (s.deflateInto capacity out).err = true ∧ (s.err = false → (s.deflateInto capacity out).ecode = 5#4) ∧
    (s.err = true → (s.deflateInto capacity out).ecode = s.ecode)) ∧
  (∀ (s : State) (v : Word),
    (memWrite s offStatus v 0b1111#4).1.pend = s.pend ∧
    (v.getLsbD 1 = true → (memWrite s offStatus v 0b1111#4).1.done = false) ∧
    (v.getLsbD 1 = false → (memWrite s offStatus v 0b1111#4).1.done = s.done) ∧
    (v.getLsbD 2 = true →
      (memWrite s offStatus v 0b1111#4).1.err = false ∧ (memWrite s offStatus v 0b1111#4).1.ecode = 0#4) ∧
    (v.getLsbD 2 = false →
      (memWrite s offStatus v 0b1111#4).1.err = s.err ∧ (memWrite s offStatus v 0b1111#4).1.ecode = s.ecode))

/-- 60_exceptions.md R194: where the engine makes the next event and a command is in flight, a step is `exec` of the
command CMD decodes to, on the state with that turn taken off the schedule, which is the model's own (log 2). -/
def Obligations.EngineStepRunsTheDecodedCommand : Prop :=
  ∀ (s : State) (i : Instr), s.pend = true → s.nextTurn.1 = .engine → decode s.cmd = .ok i →
    step s = exec i { s with sched := s.nextTurn.2 }

/-- The model's own (log 1): after `withFetchWord` the very next step runs exactly the command the word decodes to, on
the state in which it was accepted. -/
def Obligations.FetchWordIsRunNext : Prop :=
  ∀ (s : State) (w : Nat) (i : Instr), decodeTableWord 32 w = some i →
    step (s.withFetchWord 32 w) = exec i (s.accept (BitVec.ofNat 32 w))

/-! ## The commands -/

/-- 40_byteorder.md R120 whole: encoding, errors, acceptance, and completion with nothing but the common flags. -/
def Obligations.NopRule : Prop :=
  decode 0x00000000#32 = .ok .nop ∧ accepts 0x00000000#32 ∧ rejects 0x00000000#32 0x0FFFFFFF#32 ∧
  (∀ s : State, exec .nop s = .next { s with done := true, pend := false }) ∧
  (∀ s : State, s.statusWord = 0x00000000#32 →
    ∃ t, exec .nop (memWrite s offCmd 0x00000000#32 0b1111#4).1 = .next t ∧ t.statusWord = 0x00000002#32)

/-- 40_byteorder.md R121: encoding, errors, and RES <- the bytes of ARG reversed with nothing else but the common flags;
byte palindromes map to themselves; twice is the identity; the example. (The rule's example of a palindrome,
0x12344321, is none: 95_test_vectors.md V-BSW-08, log 18.) -/
def Obligations.BswapRule : Prop :=
  decode 0x10000000#32 = .ok .bswap ∧ accepts 0x10000000#32 ∧ rejects 0x10000000#32 0x0FFFFFFF#32 ∧
  (∀ s : State, exec .bswap s = .next
    { s with
      res := s.arg.extractLsb' 0 8 ++ s.arg.extractLsb' 8 8 ++ s.arg.extractLsb' 16 8 ++ s.arg.extractLsb' 24 8
      done := true
      pend := false }) ∧
  (∀ x : Word, x.extractLsb' 0 8 = x.extractLsb' 24 8 → x.extractLsb' 8 8 = x.extractLsb' 16 8 → bswap x = x) ∧
  (∀ x : Word, bswap (bswap x) = x) ∧
  bswap 0x0000000D#32 = 0x0D000000#32

/-- 40_byteorder.md R122 whole: the bytes of BSWAP(x) in little-endian order are be32(x). -/
def Obligations.BswapSerializesBigEndian : Prop :=
  ∀ x : Word, (List.range 4).map (fun k => (bswap x).extractLsb' (8 * k) 8) =
    [x.extractLsb' 24 8, x.extractLsb' 16 8, x.extractLsb' 8 8, x.extractLsb' 0 8]

/-- 41_crc.md R140 whole: encoding, errors, and CRC <- 0xFFFFFFFF with nothing else but the common flags. -/
def Obligations.CrcInitRule : Prop :=
  decode 0x20000000#32 = .ok .crcInit ∧ accepts 0x20000000#32 ∧ rejects 0x20000000#32 0x0FFFFFFF#32 ∧
  (∀ s : State, exec .crcInit s = .next { s with crc := 0xFFFFFFFF#32, done := true, pend := false })

/-- 41_crc.md R141 whole: encoding for every IMM8, errors, CRC <- crc_upd(CRC, IMM8) with nothing else but the common
flags, and the rule's values. -/
def Obligations.CrcByteRule : Prop :=
  (∀ b : Byte, decode (0x30000000#32 ||| b.setWidth 32) = .ok (.crcByte b) ∧
    accepts (0x30000000#32 ||| b.setWidth 32)) ∧
  rejects 0x30000000#32 0x0FFFFF00#32 ∧
  (∀ (s : State) (b : Byte), exec (.crcByte b) s = .next
    { s with crc := crcUpd s.crc b, done := true, pend := false }) ∧
  crcUpd 0xFFFFFFFF#32 0x00#8 = 0x2DFD1072#32 ∧ crcUpd 0#32 0#8 = 0#32 ∧
  crcUpd 0xFFFFFFFF#32 0xFF#8 = 0x00FFFFFF#32

/-- 41_crc.md R142 whole: encoding, errors, and CRC <- the four byte updates with ARG[31:24] first and ARG[7:0] last,
with nothing else but the common flags; the example. -/
def Obligations.CrcWordRule : Prop :=
  decode 0x40000000#32 = .ok .crcWord ∧ accepts 0x40000000#32 ∧ rejects 0x40000000#32 0x0FFFFFFF#32 ∧
  (∀ s : State, exec .crcWord s = .next
    { s with
      crc := crcUpd (crcUpd (crcUpd (crcUpd s.crc (s.arg.extractLsb' 24 8)) (s.arg.extractLsb' 16 8))
        (s.arg.extractLsb' 8 8)) (s.arg.extractLsb' 0 8)
      done := true
      pend := false }) ∧
  crcWord 0xFFFFFFFF#32 0x49454E44#32 = 0x51BD9F7D#32

/-- 41_crc.md R143 whole: encoding for both buffers and every LEN in range, the errors, CRC <- crc_seq over bytes 0 to
LEN-1 of the buffer (IBUF at 0x100, OBUF at 0x200) with nothing else but the common flags, and LEN = 0. -/
def Obligations.CrcBufRule : Prop :=
  (∀ len : BitVec 16,
    (len.toNat ≤ 32 → decode (0x50000000#32 ||| len.setWidth 32) = .ok (.crcBuf .ibuf len) ∧
      accepts (0x50000000#32 ||| len.setWidth 32)) ∧
    (32 < len.toNat → rejectsLength (0x50000000#32 ||| len.setWidth 32)) ∧
    (len.toNat ≤ 64 → decode (0x58000000#32 ||| len.setWidth 32) = .ok (.crcBuf .obuf len) ∧
      accepts (0x58000000#32 ||| len.setWidth 32)) ∧
    (64 < len.toNat → rejectsLength (0x58000000#32 ||| len.setWidth 32))) ∧
  rejects 0x50000000#32 0x07FF0000#32 ∧
  (∀ (s : State) (len : BitVec 16), len.toNat ≤ 32 → exec (.crcBuf .ibuf len) s = .next
    { s with
      crc := crcSeq s.crc ((List.range len.toNat).map fun i => s.readByte (0x100 + i))
      done := true
      pend := false }) ∧
  (∀ (s : State) (len : BitVec 16), len.toNat ≤ 64 → exec (.crcBuf .obuf len) s = .next
    { s with
      crc := crcSeq s.crc ((List.range len.toNat).map fun i => s.readByte (0x200 + i))
      done := true
      pend := false }) ∧
  (∀ (s : State) (src : Buf), exec (.crcBuf src 0#16) s = .next { s with done := true, pend := false })

/-- 41_crc.md R144 whole: encoding, errors, RES <- CRC xor 0xFFFFFFFF with CRC unchanged and nothing else but the common
flags; straight after CRC_INIT it gives 0; the example. -/
def Obligations.CrcFinalRule : Prop :=
  decode 0x60000000#32 = .ok .crcFinal ∧ accepts 0x60000000#32 ∧ rejects 0x60000000#32 0x0FFFFFFF#32 ∧
  (∀ s : State, exec .crcFinal s = .next
    { s with res := s.crc ^^^ 0xFFFFFFFF#32, done := true, pend := false }) ∧
  (∀ s : State, ∃ t, execAll [.crcInit, .crcFinal] s = .next t ∧ t.res = 0x00000000#32) ∧
  (∀ s : State, s.crc = 0x51BD9F7D#32 → ∃ t, exec .crcFinal s = .next t ∧ t.res = 0xAE426082#32)

/-- 41_crc.md R145 whole: encoding for both buffers and every LEN in range, the errors, RES <- the checksum of be32(ARG)
followed by bytes 0 to LEN-1 of the buffer, CRC neither read nor written, nothing else but the common flags; the
example with LEN = 0. -/
def Obligations.CrcBlockRule : Prop :=
  (∀ len : BitVec 16,
    (len.toNat ≤ 32 → decode (0x70000000#32 ||| len.setWidth 32) = .ok (.crcBlock .ibuf len) ∧
      accepts (0x70000000#32 ||| len.setWidth 32)) ∧
    (32 < len.toNat → rejectsLength (0x70000000#32 ||| len.setWidth 32)) ∧
    (len.toNat ≤ 64 → decode (0x78000000#32 ||| len.setWidth 32) = .ok (.crcBlock .obuf len) ∧
      accepts (0x78000000#32 ||| len.setWidth 32)) ∧
    (64 < len.toNat → rejectsLength (0x78000000#32 ||| len.setWidth 32))) ∧
  rejects 0x70000000#32 0x07FF0000#32 ∧
  (∀ (s : State) (len : BitVec 16), len.toNat ≤ 32 → exec (.crcBlock .ibuf len) s = .next
    { s with
      res := crcSeq (crcWord 0xFFFFFFFF#32 s.arg)
        ((List.range len.toNat).map fun i => s.readByte (0x100 + i)) ^^^ 0xFFFFFFFF#32
      done := true
      pend := false }) ∧
  (∀ (s : State) (len : BitVec 16), len.toNat ≤ 64 → exec (.crcBlock .obuf len) s = .next
    { s with
      res := crcSeq (crcWord 0xFFFFFFFF#32 s.arg)
        ((List.range len.toNat).map fun i => s.readByte (0x200 + i)) ^^^ 0xFFFFFFFF#32
      done := true
      pend := false }) ∧
  (∀ (s : State) (src : Buf), s.arg = 0x49454E44#32 →
    ∃ t, exec (.crcBlock src 0#16) s = .next t ∧ t.res = 0xAE426082#32)

/-- 42_deflate.md R160: encoding for every LEN in range, the errors at the CMD write, and the completion, which never
overflows: OLEN = LEN + 8, OBUF[0..OLEN) is DFL9 of IBUF[0..LEN), every other byte of memory reads as before, and
nothing else changes but the common flags. -/
def Obligations.DeflateRule : Prop :=
  (∀ len : BitVec 16,
    (len.toNat ≤ 4 → decode (0x80000000#32 ||| len.setWidth 32) = .ok (.deflate len) ∧
      accepts (0x80000000#32 ||| len.setWidth 32)) ∧
    (4 < len.toNat → rejectsLength (0x80000000#32 ||| len.setWidth 32))) ∧
  rejects 0x80000000#32 0x0FFF0000#32 ∧
  (∀ (s : State) (len : BitVec 16), len.toNat ≤ 4 →
    ∃ m, exec (.deflate len) s = .next
        { s with mem := m, olen := BitVec.ofNat 32 (len.toNat + 8), done := true, pend := false } ∧
      (List.range (len.toNat + 8)).map (fun i => State.readByte { s with mem := m } (0x200 + i)) =
        dfl9 ((List.range len.toNat).map fun i => s.readByte (0x100 + i)) ∧
      ∀ a, (a < 0x200 ∨ 0x200 + (len.toNat + 8) ≤ a) → State.readByte { s with mem := m } a = s.readByte a)

/-- 42_deflate.md R160, 60_exceptions.md R190 code 5: for an output buffer smaller than the output, DEFLATE's completion
raises OUT_OVERFLOW and ends, and writes no buffer byte, not OLEN and no other register. -/
def Obligations.DeflateOverflowWritesNothing : Prop :=
  ∀ (s : State) (capacity : Nat) (out : List Byte), capacity < out.length →
    s.deflateInto capacity out =
      { s with
        done := false
        err := true
        ecode := if s.err then s.ecode else 5#4
        pend := false }

/-- The model's choice (log 6; 93_implementation_defined.md U12): the meaning of a command whose LEN is above its bound
refuses by name. -/
def Obligations.OutOfRangeLengthIsRefused : Prop :=
  ∀ (s : State) (len : BitVec 16),
    (32 < len.toNat → exec (.crcBuf .ibuf len) s = .refused .lengthOutOfRange ∧
      exec (.crcBlock .ibuf len) s = .refused .lengthOutOfRange) ∧
    (64 < len.toNat → exec (.crcBuf .obuf len) s = .refused .lengthOutOfRange ∧
      exec (.crcBlock .obuf len) s = .refused .lengthOutOfRange) ∧
    (4 < len.toNat → exec (.deflate len) s = .refused .lengthOutOfRange)

/-- 10_state.md R34 and 40_byteorder.md to 42_deflate.md, over all commands: no command writes ARG, CMD, CTRL, ERR,
ECODE or IBUF; only BSWAP, CRC_FINAL and CRC_BLOCK write RES; only CRC_INIT, CRC_BYTE, CRC_WORD and CRC_BUF write CRC;
only DEFLATE writes OLEN and OBUF. -/
def Obligations.EachCommandWritesOnlyItsRegisters : Prop :=
  ∀ (i : Instr) (s t : State), exec i s = .next t →
    t.arg = s.arg ∧ t.cmd = s.cmd ∧ t.ieDone = s.ieDone ∧ t.ieErr = s.ieErr ∧ t.err = s.err ∧ t.ecode = s.ecode ∧
    (∀ a, a < 0x200 ∨ 0x240 ≤ a → t.readByte a = s.readByte a) ∧
    (t.res ≠ s.res → i = .bswap ∨ i = .crcFinal ∨ ∃ src len, i = .crcBlock src len) ∧
    (t.crc ≠ s.crc → i = .crcInit ∨ (∃ b, i = .crcByte b) ∨ i = .crcWord ∨ ∃ src len, i = .crcBuf src len) ∧
    (t.olen ≠ s.olen → ∃ len, i = .deflate len) ∧
    ((∃ a, t.readByte a ≠ s.readByte a) → ∃ len, i = .deflate len)

/-! ## The CRC function -/

/-- 41_crc.md R130: the reflected polynomial is the normal form 0x04C11DB7 bit-reversed, the byte update is the normal
form's bit-serial division of the byte's bits, least significant bit first, and the check value of "123456789" is
0xCBF43926. -/
def Obligations.CrcIsTheReflectedCrc32 : Prop :=
  crcPoly = (0x04C11DB7#32).reverse ∧
  (∀ (c : Word) (b : Byte), crcUpd c b = (normalUpd c.reverse b).reverse) ∧
  crcSeq 0xFFFFFFFF#32 [0x31#8, 0x32#8, 0x33#8, 0x34#8, 0x35#8, 0x36#8, 0x37#8, 0x38#8, 0x39#8] ^^^ 0xFFFFFFFF#32 =
    0xCBF43926#32

/-- 41_crc.md R135 whole: the five laws, with the table entries the rule names. -/
def Obligations.CrcLaws : Prop :=
  (∀ (c : Word) (a b : List Byte), crcSeq c (a ++ b) = crcSeq (crcSeq c a) b) ∧
  (∀ (c : Word) (b : Byte), crcUpd c b = (c >>> 8) ^^^ crcUpd 0#32 ((c ^^^ b.setWidth 32).extractLsb' 0 8)) ∧
  (crcUpd 0#32 0#8 = 0x00000000#32 ∧ crcUpd 0#32 1#8 = 0x77073096#32 ∧ crcUpd 0#32 2#8 = 0xEE0E612C#32 ∧
    crcUpd 0#32 128#8 = 0xEDB88320#32 ∧ crcUpd 0#32 255#8 = 0x2D02EF8D#32) ∧
  crcFin (crcSeq 0xFFFFFFFF#32 []) = 0x00000000#32 ∧
  (∃ (c : Word) (a b : Byte), crcSeq c [a, b] ≠ crcSeq c [b, a])

/-- 41_crc.md R146: for every tag, buffer and legal LEN, CRC_INIT, CRC_WORD, CRC_BUF, CRC_FINAL and CRC_BLOCK leave the
same RES, and their states differ in CRC alone: CRC_BLOCK leaves it, the sequence leaves the state after tag and
buffer. -/
def Obligations.BlockChecksumEqualsTheIncrementalPath : Prop :=
  ∀ (s : State) (src : Buf) (len : BitVec 16), (Instr.crcBlock src len).wf = true →
    ∃ t, exec (.crcBlock src len) s = .next t ∧ t.crc = s.crc ∧
      execAll [.crcInit, .crcWord, .crcBuf src len, .crcFinal] s =
        .next { t with crc := crcSeq 0xFFFFFFFF#32 (be32 s.arg ++ s.bufBytes src len.toNat) }

/-! ## The deflate kernel -/

/-- 42_deflate.md R166: for an input of n bytes, n at most 4, the deflate data is n + 2 bytes and the stream n + 8, at
most DFL_OUT_WORST, which fits OBUF. -/
def Obligations.DeflateLengthLaw : Prop :=
  ∀ input : List Byte, input.length ≤ 4 →
    (deflateData input).length = input.length + 2 ∧ (dfl9 input).length = input.length + 8 ∧
    (dfl9 input).length ≤ Config.dflOutWorst ∧ Config.dflOutWorst ≤ Config.obufBytes

/-- 42_deflate.md R165: for at most 4 bytes the reduction modulo 65521 never acts, and the checksum is the two plain
sums, b in the high half. -/
def Obligations.AdlerReductionNeverActs : Prop :=
  ∀ input : List Byte, input.length ≤ 4 →
    adler32 input = BitVec.ofNat 32 ((plainSums 1 0 input).2 * 65536 + (plainSums 1 0 input).1) ∧
    (plainSums 1 0 input).1 ≤ 1021 ∧ (plainSums 1 0 input).2 ≤ 4 * 1021

/-- 42_deflate.md R170 whole: for every input of at most 4 bytes, DFL9's output is a zlib stream with the header check of
R162, one final fixed-Huffman block and the Adler-32 of the input as its trailer, and reading it back gives the input. -/
def Obligations.DeflateRoundTrip : Prop :=
  ∀ input : List Byte, input.length ≤ 4 →
    Inflate.inflate (dfl9 input) = some input ∧
    (dfl9 input).take 2 = [0x78#8, 0xDA#8] ∧ (0x78 * 256 + 0xDA) % 31 = 0 ∧
    (dfl9 input).drop (input.length + 4) = be32 (adler32 input)

/-! ## Reset and interrupt -/

/-- 70_reset_and_hazards.md R221 and R224 whole, hardware reset: the model's reset state and the state after a hardware
reset event have every register at the table's value; every buffer byte is that reset's draw, and no
earlier reset's, since a reset counts the draws up and no other event counts them; ID and CAPS read as the constants;
irq = 0. The form of the draws (log 4), the reset as a turn of the schedule (log 2) and what it leaves of the
model's own fields (log 13) are the model's. -/
def Obligations.HardwareResetState : Prop :=
  registersReset State.reset ∧
  (∀ a, State.reset.readByte a = Config.bufferDraw State.reset.draws a) ∧
  (∀ s : State, s.nextTurn.1 = .hardwareReset →
    ∃ t, step s = .next t ∧ registersReset t ∧ s.draws < t.draws ∧
      (∀ a, t.readByte a = Config.bufferDraw t.draws a) ∧
      memRead t 0x000#12 = (0x504E4731#32, .okay) ∧ memRead t 0x004#12 = (0x00044020#32, .okay)) ∧
  (∀ s t : State, s.nextTurn.1 ≠ .hardwareReset → step s = .next t → t.draws = s.draws)

/-- 70_reset_and_hazards.md R222 whole: a CTRL write with bit 31 set answers OKAY, sets every register as a hardware reset
does, in flight or not, and keeps every buffer byte. -/
def Obligations.SoftResetKeepsTheBuffers : Prop :=
  ∀ (s : State) (v : Word), v.getLsbD 31 = true →
    ∃ t, memWrite s offCtrl v 0b1111#4 = (t, .okay) ∧ registersReset t ∧
      t.ieDone = s.hardwareReset.ieDone ∧ t.ieErr = s.hardwareReset.ieErr ∧ t.pend = s.hardwareReset.pend ∧
      ∀ a, t.readByte a = s.readByte a

/-- 60_exceptions.md R200 whole: irq is (DONE and IE_DONE) or (ERR and IE_ERR), as STATUS and CTRL read them, and it is 0
after either reset. -/
def Obligations.InterruptLine : Prop :=
  ∀ s : State,
    s.irq = ((s.statusWord.getLsbD 1 && s.ctrlWord.getLsbD 0) || (s.statusWord.getLsbD 2 && s.ctrlWord.getLsbD 1)) ∧
    s.softReset.irq = false ∧ s.hardwareReset.irq = false ∧ State.reset.irq = false

/-! ## Whole-machine rules -/

/-- The reset state meets the invariant: 60_exceptions.md R196; the clause that ERR = 1 implies a code, read from
10_state.md R25 and 60_exceptions.md R190; CMD decodes (10_state.md R27); and the model's own canonical form of buffer
memory (log 5). -/
def Obligations.ResetMeetsTheInvariant : Prop := Inv State.reset

/-- Every step from a state that meets the invariant gives one that meets it: 60_exceptions.md R196 items 1 to 4; the
clause that ERR = 1 implies a code (10_state.md R25, 60_exceptions.md R190); CMD decodes (10_state.md R27); and the
model's own canonical form of buffer memory (log 5). Who makes the step is the model's schedule (logs 1 and 2). -/
def Obligations.StepKeepsTheInvariant : Prop :=
  ∀ s t : State, Inv s → step s = .next t → Inv t

/-- 60_exceptions.md R194 ("cannot fail: CMD was accepted"): from a state that meets the invariant every step gives a
next state; the machine never stops. -/
def Obligations.StepNeverStops : Prop :=
  ∀ s : State, Inv s → ∃ t, step s = .next t

/-- 60_exceptions.md R196 items 1 to 4, over the states the model reaches: under every host program (log 1) and every
schedule (log 2), which are the model's own, and after any number of steps from reset. -/
def Obligations.ReachableStatesMeetR196 : Prop :=
  ∀ (prog : List HostOp) (sched : Schedule) (k : Nat),
    ∃ t : State, Sys2Proof.core.run k { State.reset with prog := prog, sched := sched } = .next t ∧
      (t.pend = true → t.done = false) ∧ (t.err = false → t.ecode = 0#4) ∧
      t.ecode.toNat ∈ [0, 1, 2, 3, 4, 5] ∧ t.olen.toNat ∈ [0, 8, 9, 10, 11, 12]

/-- 20_memory.md R75, 10_state.md R36: until the event that ends PEND, a command in flight, its operands, its results and
the buffers are as they were at acceptance. -/
def Obligations.InFlightOperandsAreFrozen : Prop :=
  ∀ s t : State, s.pend = true → step s = .next t → t.pend = true →
    t.cmd = s.cmd ∧ t.arg = s.arg ∧ t.crc = s.crc ∧ t.res = s.res ∧ t.olen = s.olen ∧
    ∀ a, t.readByte a = s.readByte a

/-- 60_exceptions.md R208, 10_state.md R35: an idle engine starts a command only by a full-strobe host write to CMD of a
word that decodes. Whose turn it is and the host's program are the model's own (logs 1 and 2). -/
def Obligations.OnlyACmdWriteStartsACommand : Prop :=
  ∀ s t : State, s.pend = false → step s = .next t → t.pend = true →
    ∃ w i, hostNext s (.write offCmd w 0b1111#4) ∧ decode w = .ok i ∧ t.cmd = w ∧ t.done = false

/-- 60_exceptions.md R199, 10_state.md R25, 70_reset_and_hazards.md R235: ERR is sticky. Only a hardware reset, a STATUS
write with bit 2 set or a soft reset ends it, and until then ECODE keeps the first code. Whose turn it is and the host's
program are the model's own (logs 1 and 2). -/
def Obligations.ErrAndFirstCodeStayUntilCleared : Prop :=
  ∀ s t : State, s.err = true → step s = .next t →
    (t.err = true ∧ t.ecode = s.ecode) ∨
    (t.err = false ∧
      (s.nextTurn.1 = .hardwareReset ∨
        (∃ v : Word, v.getLsbD 2 = true ∧ hostNext s (.write offStatus v 0b1111#4)) ∨
        (∃ v : Word, v.getLsbD 31 = true ∧ hostNext s (.write offCtrl v 0b1111#4))))

/-- 60_exceptions.md R208: with no command in flight, an engine turn and a turn of a host whose program has ended change
nothing but the schedule. These turns are the model's choice (logs 2, 3 and 11). -/
def Obligations.IdleEngineKeepsItsState : Prop :=
  ∀ s : State, s.pend = false → s.nextTurn.1 ≠ .hardwareReset → (s.nextTurn.1 = .host → s.prog[s.hpc]? = none) →
    step s = .next { s with sched := s.nextTurn.2 }

/-- 60_exceptions.md R194: the weak fairness, as the model's schedule gives it (log 2): from a state that meets the
invariant with a command in flight, PEND falls within the listed turns, what is left of the round, and one step more. The
round's length is the OPEN `Config.busyLatency`, finite and without a bound. -/
def Obligations.PendingCommandEnds : Prop :=
  ∀ s : State, Inv s → s.pend = true →
    ∃ (k : Nat) (t : State), k ≤ s.sched.listed.length + (Config.busyLatency s.sched.round - s.sched.spent) + 1 ∧
      Sys2Proof.core.run k s = .next t ∧ t.pend = false

/-! ## The host's notation -/

/-- 30_encoding.md R98: a host turn performs the operation at the host's place as one bus access, and BIT_SET goes to its
label exactly when the bit of the value read is 1. The program and the place (log 1), the turn (log 2) and the reply,
after which the host goes on even where it is a BUSERR (log 9), are the model's own; that a BIT_SET of an offset that
answers BUSERR tests the data 0 and goes on is the model's choice (log 11). -/
def Obligations.HostTurnPerformsOneAccess : Prop :=
  ∀ s : State,
    (∀ off, hostNext s (.read off) →
      step s = .next { s with
        sched := s.nextTurn.2
        hpc := s.hpc + 1
        reply := some (.read (memRead s off).1 (memRead s off).2) }) ∧
    (∀ off v strb, hostNext s (.write off v strb) →
      ∃ t, step s = .next t ∧ t.hpc = s.hpc + 1 ∧ t.reply = some (.write (memWrite s off v strb).2) ∧
        { t with hpc := s.hpc, reply := s.reply, sched := s.sched } = (memWrite s off v strb).1) ∧
    (∀ off n target, hostNext s (.bitSet off n target) →
      step s = .next { s with
        sched := s.nextTurn.2
        hpc := if (memRead s off).1.getLsbD n = true then target else s.hpc + 1
        reply := some (.read (memRead s off).1 (memRead s off).2) })

/-- 30_encoding.md R99: the seven expansions, each standing at place `pos` of the program. -/
def Obligations.PseudoInstructionExpansions : Prop :=
  ∀ (pos : Nat) (i : Instr) (v tag : Word) (src : Buf) (len : BitVec 16),
    HostLine.wait.expand pos = [.bitSet 0x00C#12 0 pos] ∧
    (HostLine.issue i).expand pos = [.write 0x010#12 (encode i) 0b1111#4, .bitSet 0x00C#12 0 (pos + 1)] ∧
    (HostLine.ldarg v).expand pos = [.write 0x014#12 v 0b1111#4] ∧
    HostLine.clrst.expand pos = [.write 0x00C#12 0x00000006#32 0b1111#4] ∧
    (HostLine.crc32 src len).expand pos =
      (HostLine.issue .crcInit).expand pos ++ (HostLine.issue (.crcBuf src len)).expand (pos + 2) ++
        (HostLine.issue .crcFinal).expand (pos + 4) ∧
    (HostLine.chunkcrc tag src len).expand pos =
      (HostLine.ldarg tag).expand pos ++ (HostLine.issue (.crcBlock src len)).expand (pos + 1) ∧
    (HostLine.tobe v).expand pos = (HostLine.ldarg v).expand pos ++ (HostLine.issue .bswap).expand (pos + 1)

/-- 30_encoding.md R99, 70_reset_and_hazards.md R230, R239: an ISSUE runs its command whatever the latency. The host
writes CMD, polls `n` times while BUSY = 1, the engine completes, and the next poll leaves the loop: the state is that of
the command's completion, with the host past the ISSUE. The host's program and place (log 1), the schedule (log 2) and
the reply (log 9) are the model's own. -/
def Obligations.IssueRunsItsCommandAtEveryLatency : Prop :=
  ∀ (s : State) (i : Instr) (n : Nat) (rest : List Turn),
    i.wf = true → s.pend = false →
    s.sched.listed = .host :: (List.replicate n .host ++ .engine :: .host :: rest) →
    (∀ j, (h : j < 2) → s.prog[s.hpc + j]? = ((HostLine.issue i).expand s.hpc)[j]?) →
    ∃ t : State, exec i { s with cmd := encode i, pend := true, done := false } = .next t ∧
      Sys2Proof.core.run (n + 3) s = .next
        { t with hpc := s.hpc + 2, sched := { s.sched with listed := rest }, reply := some (.read t.statusWord .okay) }
end

