-- ==== Sys2Proof/Laws/Bus.lean ====
section
/-! SUPPORT. The address map at each register's offset and over each window, so that no proof looks it up again. -/

namespace Sys2Proof.Machine

@[simp] theorem place_id : place 0x000 = .reg .id := by decide
@[simp] theorem place_caps : place 0x004 = .reg .caps := by decide
@[simp] theorem place_ctrl : place 0x008 = .reg .ctrl := by decide
@[simp] theorem place_status : place 0x00C = .reg .status := by decide
@[simp] theorem place_cmd : place 0x010 = .reg .cmd := by decide
@[simp] theorem place_arg : place 0x014 = .reg .arg := by decide
@[simp] theorem place_res : place 0x018 = .reg .res := by decide
@[simp] theorem place_crc : place 0x01C = .reg .crc := by decide
@[simp] theorem place_olen : place 0x020 = .reg .olen := by decide

/-- Above the registers the map is decided by the two buffer windows alone. -/
theorem place_above {off : Nat} (h : 0x020 < off) :
    place off =
      if 0x100 ≤ off ∧ off < 0x120 then .ibuf else if 0x200 ≤ off ∧ off < 0x240 then .obuf else .reserved := by
  have hn : ∀ q ∈ regMap, q.1 ≠ off := by
    simp only [regMap, List.forall_mem_cons]
    refine ⟨?_, ?_, ?_, ?_, ?_, ?_, ?_, ?_, ?_, by simp⟩ <;> omega
  have hl : regMap.lookup off = none := by
    rw [List.lookup_eq_none_iff]
    exact fun q hq => by simpa using (hn q hq).symm
  simp [place, hl]

/-- The only offsets of registers are the nine of 10_state.md R21. -/
theorem place_reg {off : Nat} {r : Reg} (h : place off = .reg r) : (off, r) ∈ regMap := by
  unfold place at h
  split at h
  · rename_i r' hr
    cases h
    obtain ⟨l, k, hk, -⟩ := List.lookup_eq_some_iff.1 hr
    simp [hk]
  · split at h
    · cases h
    · split at h <;> cases h

end Sys2Proof.Machine
end

