-- ==== Sys2Proof/Laws/State.lean ====
section
/-! SUPPORT. What each shared update of State does to each field: one lemma per field per update, so that no later
proof unfolds a record update. -/

namespace Sys2Proof.Machine

/-! `State.clearDone`. -/

@[simp] theorem State.clearDone_ieDone (s : State) : (s.clearDone).ieDone = s.ieDone := rfl
@[simp] theorem State.clearDone_ieErr (s : State) : (s.clearDone).ieErr = s.ieErr := rfl
@[simp] theorem State.clearDone_pend (s : State) : (s.clearDone).pend = s.pend := rfl
@[simp] theorem State.clearDone_done (s : State) : (s.clearDone).done = false := rfl
@[simp] theorem State.clearDone_err (s : State) : (s.clearDone).err = s.err := rfl
@[simp] theorem State.clearDone_ecode (s : State) : (s.clearDone).ecode = s.ecode := rfl
@[simp] theorem State.clearDone_cmd (s : State) : (s.clearDone).cmd = s.cmd := rfl
@[simp] theorem State.clearDone_arg (s : State) : (s.clearDone).arg = s.arg := rfl
@[simp] theorem State.clearDone_res (s : State) : (s.clearDone).res = s.res := rfl
@[simp] theorem State.clearDone_crc (s : State) : (s.clearDone).crc = s.crc := rfl
@[simp] theorem State.clearDone_olen (s : State) : (s.clearDone).olen = s.olen := rfl
@[simp] theorem State.clearDone_mem (s : State) : (s.clearDone).mem = s.mem := rfl
@[simp] theorem State.clearDone_draws (s : State) : (s.clearDone).draws = s.draws := rfl
@[simp] theorem State.clearDone_prog (s : State) : (s.clearDone).prog = s.prog := rfl
@[simp] theorem State.clearDone_hpc (s : State) : (s.clearDone).hpc = s.hpc := rfl
@[simp] theorem State.clearDone_sched (s : State) : (s.clearDone).sched = s.sched := rfl
@[simp] theorem State.clearDone_reply (s : State) : (s.clearDone).reply = s.reply := rfl

/-! `State.completeOk`. -/

@[simp] theorem State.completeOk_ieDone (s : State) : (s.completeOk).ieDone = s.ieDone := rfl
@[simp] theorem State.completeOk_ieErr (s : State) : (s.completeOk).ieErr = s.ieErr := rfl
@[simp] theorem State.completeOk_pend (s : State) : (s.completeOk).pend = false := rfl
@[simp] theorem State.completeOk_done (s : State) : (s.completeOk).done = true := rfl
@[simp] theorem State.completeOk_err (s : State) : (s.completeOk).err = s.err := rfl
@[simp] theorem State.completeOk_ecode (s : State) : (s.completeOk).ecode = s.ecode := rfl
@[simp] theorem State.completeOk_cmd (s : State) : (s.completeOk).cmd = s.cmd := rfl
@[simp] theorem State.completeOk_arg (s : State) : (s.completeOk).arg = s.arg := rfl
@[simp] theorem State.completeOk_res (s : State) : (s.completeOk).res = s.res := rfl
@[simp] theorem State.completeOk_crc (s : State) : (s.completeOk).crc = s.crc := rfl
@[simp] theorem State.completeOk_olen (s : State) : (s.completeOk).olen = s.olen := rfl
@[simp] theorem State.completeOk_mem (s : State) : (s.completeOk).mem = s.mem := rfl
@[simp] theorem State.completeOk_draws (s : State) : (s.completeOk).draws = s.draws := rfl
@[simp] theorem State.completeOk_prog (s : State) : (s.completeOk).prog = s.prog := rfl
@[simp] theorem State.completeOk_hpc (s : State) : (s.completeOk).hpc = s.hpc := rfl
@[simp] theorem State.completeOk_sched (s : State) : (s.completeOk).sched = s.sched := rfl
@[simp] theorem State.completeOk_reply (s : State) : (s.completeOk).reply = s.reply := rfl

/-! `State.setEnables`. -/

@[simp] theorem State.setEnables_ieDone (s : State) (v : Word) : (s.setEnables v).ieDone = v.getLsbD 0 := rfl
@[simp] theorem State.setEnables_ieErr (s : State) (v : Word) : (s.setEnables v).ieErr = v.getLsbD 1 := rfl
@[simp] theorem State.setEnables_pend (s : State) (v : Word) : (s.setEnables v).pend = s.pend := rfl
@[simp] theorem State.setEnables_done (s : State) (v : Word) : (s.setEnables v).done = s.done := rfl
@[simp] theorem State.setEnables_err (s : State) (v : Word) : (s.setEnables v).err = s.err := rfl
@[simp] theorem State.setEnables_ecode (s : State) (v : Word) : (s.setEnables v).ecode = s.ecode := rfl
@[simp] theorem State.setEnables_cmd (s : State) (v : Word) : (s.setEnables v).cmd = s.cmd := rfl
@[simp] theorem State.setEnables_arg (s : State) (v : Word) : (s.setEnables v).arg = s.arg := rfl
@[simp] theorem State.setEnables_res (s : State) (v : Word) : (s.setEnables v).res = s.res := rfl
@[simp] theorem State.setEnables_crc (s : State) (v : Word) : (s.setEnables v).crc = s.crc := rfl
@[simp] theorem State.setEnables_olen (s : State) (v : Word) : (s.setEnables v).olen = s.olen := rfl
@[simp] theorem State.setEnables_mem (s : State) (v : Word) : (s.setEnables v).mem = s.mem := rfl
@[simp] theorem State.setEnables_draws (s : State) (v : Word) : (s.setEnables v).draws = s.draws := rfl
@[simp] theorem State.setEnables_prog (s : State) (v : Word) : (s.setEnables v).prog = s.prog := rfl
@[simp] theorem State.setEnables_hpc (s : State) (v : Word) : (s.setEnables v).hpc = s.hpc := rfl
@[simp] theorem State.setEnables_sched (s : State) (v : Word) : (s.setEnables v).sched = s.sched := rfl
@[simp] theorem State.setEnables_reply (s : State) (v : Word) : (s.setEnables v).reply = s.reply := rfl

/-! `State.setByte`. -/

@[simp] theorem State.setByte_ieDone (s : State) (a : Nat) (v : Byte) : (s.setByte a v).ieDone = s.ieDone := rfl
@[simp] theorem State.setByte_ieErr (s : State) (a : Nat) (v : Byte) : (s.setByte a v).ieErr = s.ieErr := rfl
@[simp] theorem State.setByte_pend (s : State) (a : Nat) (v : Byte) : (s.setByte a v).pend = s.pend := rfl
@[simp] theorem State.setByte_done (s : State) (a : Nat) (v : Byte) : (s.setByte a v).done = s.done := rfl
@[simp] theorem State.setByte_err (s : State) (a : Nat) (v : Byte) : (s.setByte a v).err = s.err := rfl
@[simp] theorem State.setByte_ecode (s : State) (a : Nat) (v : Byte) : (s.setByte a v).ecode = s.ecode := rfl
@[simp] theorem State.setByte_cmd (s : State) (a : Nat) (v : Byte) : (s.setByte a v).cmd = s.cmd := rfl
@[simp] theorem State.setByte_arg (s : State) (a : Nat) (v : Byte) : (s.setByte a v).arg = s.arg := rfl
@[simp] theorem State.setByte_res (s : State) (a : Nat) (v : Byte) : (s.setByte a v).res = s.res := rfl
@[simp] theorem State.setByte_crc (s : State) (a : Nat) (v : Byte) : (s.setByte a v).crc = s.crc := rfl
@[simp] theorem State.setByte_olen (s : State) (a : Nat) (v : Byte) : (s.setByte a v).olen = s.olen := rfl
@[simp] theorem State.setByte_mem (s : State) (a : Nat) (v : Byte) : (s.setByte a v).mem = Memory.set s.mem a v := rfl
@[simp] theorem State.setByte_draws (s : State) (a : Nat) (v : Byte) : (s.setByte a v).draws = s.draws := rfl
@[simp] theorem State.setByte_prog (s : State) (a : Nat) (v : Byte) : (s.setByte a v).prog = s.prog := rfl
@[simp] theorem State.setByte_hpc (s : State) (a : Nat) (v : Byte) : (s.setByte a v).hpc = s.hpc := rfl
@[simp] theorem State.setByte_sched (s : State) (a : Nat) (v : Byte) : (s.setByte a v).sched = s.sched := rfl
@[simp] theorem State.setByte_reply (s : State) (a : Nat) (v : Byte) : (s.setByte a v).reply = s.reply := rfl

/-! `State.raiseErr`. -/

@[simp] theorem State.raiseErr_ieDone (s : State) (e : ErrCode) : (s.raiseErr e).ieDone = s.ieDone := rfl
@[simp] theorem State.raiseErr_ieErr (s : State) (e : ErrCode) : (s.raiseErr e).ieErr = s.ieErr := rfl
@[simp] theorem State.raiseErr_pend (s : State) (e : ErrCode) : (s.raiseErr e).pend = s.pend := rfl
@[simp] theorem State.raiseErr_done (s : State) (e : ErrCode) : (s.raiseErr e).done = false := rfl
@[simp] theorem State.raiseErr_err (s : State) (e : ErrCode) : (s.raiseErr e).err = true := rfl
@[simp] theorem State.raiseErr_ecode (s : State) (e : ErrCode) : (s.raiseErr e).ecode = if s.err then s.ecode else e.code := rfl
@[simp] theorem State.raiseErr_cmd (s : State) (e : ErrCode) : (s.raiseErr e).cmd = s.cmd := rfl
@[simp] theorem State.raiseErr_arg (s : State) (e : ErrCode) : (s.raiseErr e).arg = s.arg := rfl
@[simp] theorem State.raiseErr_res (s : State) (e : ErrCode) : (s.raiseErr e).res = s.res := rfl
@[simp] theorem State.raiseErr_crc (s : State) (e : ErrCode) : (s.raiseErr e).crc = s.crc := rfl
@[simp] theorem State.raiseErr_olen (s : State) (e : ErrCode) : (s.raiseErr e).olen = s.olen := rfl
@[simp] theorem State.raiseErr_mem (s : State) (e : ErrCode) : (s.raiseErr e).mem = s.mem := rfl
@[simp] theorem State.raiseErr_draws (s : State) (e : ErrCode) : (s.raiseErr e).draws = s.draws := rfl
@[simp] theorem State.raiseErr_prog (s : State) (e : ErrCode) : (s.raiseErr e).prog = s.prog := rfl
@[simp] theorem State.raiseErr_hpc (s : State) (e : ErrCode) : (s.raiseErr e).hpc = s.hpc := rfl
@[simp] theorem State.raiseErr_sched (s : State) (e : ErrCode) : (s.raiseErr e).sched = s.sched := rfl
@[simp] theorem State.raiseErr_reply (s : State) (e : ErrCode) : (s.raiseErr e).reply = s.reply := rfl

/-! `State.clearErr`. -/

@[simp] theorem State.clearErr_ieDone (s : State) : (s.clearErr).ieDone = s.ieDone := rfl
@[simp] theorem State.clearErr_ieErr (s : State) : (s.clearErr).ieErr = s.ieErr := rfl
@[simp] theorem State.clearErr_pend (s : State) : (s.clearErr).pend = s.pend := rfl
@[simp] theorem State.clearErr_done (s : State) : (s.clearErr).done = s.done := rfl
@[simp] theorem State.clearErr_err (s : State) : (s.clearErr).err = false := rfl
@[simp] theorem State.clearErr_ecode (s : State) : (s.clearErr).ecode = 0#4 := rfl
@[simp] theorem State.clearErr_cmd (s : State) : (s.clearErr).cmd = s.cmd := rfl
@[simp] theorem State.clearErr_arg (s : State) : (s.clearErr).arg = s.arg := rfl
@[simp] theorem State.clearErr_res (s : State) : (s.clearErr).res = s.res := rfl
@[simp] theorem State.clearErr_crc (s : State) : (s.clearErr).crc = s.crc := rfl
@[simp] theorem State.clearErr_olen (s : State) : (s.clearErr).olen = s.olen := rfl
@[simp] theorem State.clearErr_mem (s : State) : (s.clearErr).mem = s.mem := rfl
@[simp] theorem State.clearErr_draws (s : State) : (s.clearErr).draws = s.draws := rfl
@[simp] theorem State.clearErr_prog (s : State) : (s.clearErr).prog = s.prog := rfl
@[simp] theorem State.clearErr_hpc (s : State) : (s.clearErr).hpc = s.hpc := rfl
@[simp] theorem State.clearErr_sched (s : State) : (s.clearErr).sched = s.sched := rfl
@[simp] theorem State.clearErr_reply (s : State) : (s.clearErr).reply = s.reply := rfl

/-! `State.completeErr`. -/

@[simp] theorem State.completeErr_ieDone (s : State) (e : ErrCode) : (s.completeErr e).ieDone = s.ieDone := rfl
@[simp] theorem State.completeErr_ieErr (s : State) (e : ErrCode) : (s.completeErr e).ieErr = s.ieErr := rfl
@[simp] theorem State.completeErr_pend (s : State) (e : ErrCode) : (s.completeErr e).pend = false := rfl
@[simp] theorem State.completeErr_done (s : State) (e : ErrCode) : (s.completeErr e).done = false := rfl
@[simp] theorem State.completeErr_err (s : State) (e : ErrCode) : (s.completeErr e).err = true := rfl
@[simp] theorem State.completeErr_ecode (s : State) (e : ErrCode) : (s.completeErr e).ecode = if s.err then s.ecode else e.code := rfl
@[simp] theorem State.completeErr_cmd (s : State) (e : ErrCode) : (s.completeErr e).cmd = s.cmd := rfl
@[simp] theorem State.completeErr_arg (s : State) (e : ErrCode) : (s.completeErr e).arg = s.arg := rfl
@[simp] theorem State.completeErr_res (s : State) (e : ErrCode) : (s.completeErr e).res = s.res := rfl
@[simp] theorem State.completeErr_crc (s : State) (e : ErrCode) : (s.completeErr e).crc = s.crc := rfl
@[simp] theorem State.completeErr_olen (s : State) (e : ErrCode) : (s.completeErr e).olen = s.olen := rfl
@[simp] theorem State.completeErr_mem (s : State) (e : ErrCode) : (s.completeErr e).mem = s.mem := rfl
@[simp] theorem State.completeErr_draws (s : State) (e : ErrCode) : (s.completeErr e).draws = s.draws := rfl
@[simp] theorem State.completeErr_prog (s : State) (e : ErrCode) : (s.completeErr e).prog = s.prog := rfl
@[simp] theorem State.completeErr_hpc (s : State) (e : ErrCode) : (s.completeErr e).hpc = s.hpc := rfl
@[simp] theorem State.completeErr_sched (s : State) (e : ErrCode) : (s.completeErr e).sched = s.sched := rfl
@[simp] theorem State.completeErr_reply (s : State) (e : ErrCode) : (s.completeErr e).reply = s.reply := rfl

/-! `State.accept`. -/

@[simp] theorem State.accept_ieDone (s : State) (w : Word) : (s.accept w).ieDone = s.ieDone := rfl
@[simp] theorem State.accept_ieErr (s : State) (w : Word) : (s.accept w).ieErr = s.ieErr := rfl
@[simp] theorem State.accept_pend (s : State) (w : Word) : (s.accept w).pend = true := rfl
@[simp] theorem State.accept_done (s : State) (w : Word) : (s.accept w).done = false := rfl
@[simp] theorem State.accept_err (s : State) (w : Word) : (s.accept w).err = s.err := rfl
@[simp] theorem State.accept_ecode (s : State) (w : Word) : (s.accept w).ecode = s.ecode := rfl
@[simp] theorem State.accept_cmd (s : State) (w : Word) : (s.accept w).cmd = w := rfl
@[simp] theorem State.accept_arg (s : State) (w : Word) : (s.accept w).arg = s.arg := rfl
@[simp] theorem State.accept_res (s : State) (w : Word) : (s.accept w).res = s.res := rfl
@[simp] theorem State.accept_crc (s : State) (w : Word) : (s.accept w).crc = s.crc := rfl
@[simp] theorem State.accept_olen (s : State) (w : Word) : (s.accept w).olen = s.olen := rfl
@[simp] theorem State.accept_mem (s : State) (w : Word) : (s.accept w).mem = s.mem := rfl
@[simp] theorem State.accept_draws (s : State) (w : Word) : (s.accept w).draws = s.draws := rfl
@[simp] theorem State.accept_prog (s : State) (w : Word) : (s.accept w).prog = s.prog := rfl
@[simp] theorem State.accept_hpc (s : State) (w : Word) : (s.accept w).hpc = s.hpc := rfl
@[simp] theorem State.accept_sched (s : State) (w : Word) : (s.accept w).sched = s.sched := rfl
@[simp] theorem State.accept_reply (s : State) (w : Word) : (s.accept w).reply = s.reply := rfl

/-! `State.resetRegisters`. -/

@[simp] theorem State.resetRegisters_ieDone (s : State) : (s.resetRegisters).ieDone = false := rfl
@[simp] theorem State.resetRegisters_ieErr (s : State) : (s.resetRegisters).ieErr = false := rfl
@[simp] theorem State.resetRegisters_pend (s : State) : (s.resetRegisters).pend = false := rfl
@[simp] theorem State.resetRegisters_done (s : State) : (s.resetRegisters).done = false := rfl
@[simp] theorem State.resetRegisters_err (s : State) : (s.resetRegisters).err = false := rfl
@[simp] theorem State.resetRegisters_ecode (s : State) : (s.resetRegisters).ecode = 0#4 := rfl
@[simp] theorem State.resetRegisters_cmd (s : State) : (s.resetRegisters).cmd = 0x00000000#32 := rfl
@[simp] theorem State.resetRegisters_arg (s : State) : (s.resetRegisters).arg = 0x00000000#32 := rfl
@[simp] theorem State.resetRegisters_res (s : State) : (s.resetRegisters).res = 0x00000000#32 := rfl
@[simp] theorem State.resetRegisters_crc (s : State) : (s.resetRegisters).crc = 0xFFFFFFFF#32 := rfl
@[simp] theorem State.resetRegisters_olen (s : State) : (s.resetRegisters).olen = 0x00000000#32 := rfl
@[simp] theorem State.resetRegisters_mem (s : State) : (s.resetRegisters).mem = s.mem := rfl
@[simp] theorem State.resetRegisters_draws (s : State) : (s.resetRegisters).draws = s.draws := rfl
@[simp] theorem State.resetRegisters_prog (s : State) : (s.resetRegisters).prog = s.prog := rfl
@[simp] theorem State.resetRegisters_hpc (s : State) : (s.resetRegisters).hpc = s.hpc := rfl
@[simp] theorem State.resetRegisters_sched (s : State) : (s.resetRegisters).sched = s.sched := rfl
@[simp] theorem State.resetRegisters_reply (s : State) : (s.resetRegisters).reply = s.reply := rfl

/-! `State.softReset`. -/

@[simp] theorem State.softReset_ieDone (s : State) : (s.softReset).ieDone = false := rfl
@[simp] theorem State.softReset_ieErr (s : State) : (s.softReset).ieErr = false := rfl
@[simp] theorem State.softReset_pend (s : State) : (s.softReset).pend = false := rfl
@[simp] theorem State.softReset_done (s : State) : (s.softReset).done = false := rfl
@[simp] theorem State.softReset_err (s : State) : (s.softReset).err = false := rfl
@[simp] theorem State.softReset_ecode (s : State) : (s.softReset).ecode = 0#4 := rfl
@[simp] theorem State.softReset_cmd (s : State) : (s.softReset).cmd = 0x00000000#32 := rfl
@[simp] theorem State.softReset_arg (s : State) : (s.softReset).arg = 0x00000000#32 := rfl
@[simp] theorem State.softReset_res (s : State) : (s.softReset).res = 0x00000000#32 := rfl
@[simp] theorem State.softReset_crc (s : State) : (s.softReset).crc = 0xFFFFFFFF#32 := rfl
@[simp] theorem State.softReset_olen (s : State) : (s.softReset).olen = 0x00000000#32 := rfl
@[simp] theorem State.softReset_mem (s : State) : (s.softReset).mem = s.mem := rfl
@[simp] theorem State.softReset_draws (s : State) : (s.softReset).draws = s.draws := rfl
@[simp] theorem State.softReset_prog (s : State) : (s.softReset).prog = s.prog := rfl
@[simp] theorem State.softReset_hpc (s : State) : (s.softReset).hpc = s.hpc := rfl
@[simp] theorem State.softReset_sched (s : State) : (s.softReset).sched = s.sched := rfl
@[simp] theorem State.softReset_reply (s : State) : (s.softReset).reply = s.reply := rfl

/-! `State.hardwareReset`. -/

@[simp] theorem State.hardwareReset_ieDone (s : State) : (s.hardwareReset).ieDone = false := rfl
@[simp] theorem State.hardwareReset_ieErr (s : State) : (s.hardwareReset).ieErr = false := rfl
@[simp] theorem State.hardwareReset_pend (s : State) : (s.hardwareReset).pend = false := rfl
@[simp] theorem State.hardwareReset_done (s : State) : (s.hardwareReset).done = false := rfl
@[simp] theorem State.hardwareReset_err (s : State) : (s.hardwareReset).err = false := rfl
@[simp] theorem State.hardwareReset_ecode (s : State) : (s.hardwareReset).ecode = 0#4 := rfl
@[simp] theorem State.hardwareReset_cmd (s : State) : (s.hardwareReset).cmd = 0x00000000#32 := rfl
@[simp] theorem State.hardwareReset_arg (s : State) : (s.hardwareReset).arg = 0x00000000#32 := rfl
@[simp] theorem State.hardwareReset_res (s : State) : (s.hardwareReset).res = 0x00000000#32 := rfl
@[simp] theorem State.hardwareReset_crc (s : State) : (s.hardwareReset).crc = 0xFFFFFFFF#32 := rfl
@[simp] theorem State.hardwareReset_olen (s : State) : (s.hardwareReset).olen = 0x00000000#32 := rfl
@[simp] theorem State.hardwareReset_mem (s : State) : (s.hardwareReset).mem = [] := rfl
@[simp] theorem State.hardwareReset_draws (s : State) : (s.hardwareReset).draws = s.draws + 1 := rfl
@[simp] theorem State.hardwareReset_prog (s : State) : (s.hardwareReset).prog = s.prog := rfl
@[simp] theorem State.hardwareReset_hpc (s : State) : (s.hardwareReset).hpc = s.hpc := rfl
@[simp] theorem State.hardwareReset_sched (s : State) : (s.hardwareReset).sched = s.sched := rfl
@[simp] theorem State.hardwareReset_reply (s : State) : (s.hardwareReset).reply = s.reply := rfl

end Sys2Proof.Machine
end

