-- ==== Sys2Proof/Laws/Memory.lean ====
section
/-! SUPPORT. Buffer memory: read after write, a write leaves every other byte alone, and every operation keeps the
canonical form. -/

namespace Sys2Proof.Machine

/-! Reading what is listed. -/

theorem Memory.get?_set_same (m : List Host.Cell) (a : Nat) (v : Byte) :
    Memory.get? (Memory.set m a v) a = some v := by
  induction m with
  | nil => simp [Memory.set, Memory.get?]
  | cons c m ih =>
    simp only [Memory.set]
    split
    · simp [Memory.get?]
    · split
      · simp [Memory.get?]
      · rename_i h
        simp [Memory.get?, Ne.symm h, ih]

theorem Memory.get?_set_other (m : List Host.Cell) {a b : Nat} (v : Byte) (h : b ≠ a) :
    Memory.get? (Memory.set m a v) b = Memory.get? m b := by
  induction m with
  | nil => simp [Memory.set, Memory.get?, Ne.symm h]
  | cons c m ih =>
    simp only [Memory.set]
    split
    · simp [Memory.get?, Ne.symm h]
    · split
      · rename_i hc
        subst hc
        simp [Memory.get?, Ne.symm h]
      · simp [Memory.get?, ih]

/-! The canonical form. -/

theorem Memory.mem_set {m : List Host.Cell} {a : Nat} {v : Byte} {c : Host.Cell} (h : c ∈ Memory.set m a v) :
    c = (a, v) ∨ c ∈ m := by
  induction m with
  | nil => exact .inl (by simpa [Memory.set] using h)
  | cons d m ih =>
    simp only [Memory.set] at h
    split at h
    · simpa using h
    · split at h
      · rcases List.mem_cons.1 h with h | h
        · exact .inl h
        · exact .inr (List.mem_cons_of_mem _ h)
      · rcases List.mem_cons.1 h with h | h
        · exact .inr (h ▸ List.mem_cons_self)
        · exact (ih h).imp_right (List.mem_cons_of_mem _)

theorem Memory.set_rising {m : List Host.Cell} (a : Nat) (v : Byte) (h : m.Pairwise fun c d => c.1 < d.1) :
    (Memory.set m a v).Pairwise fun c d => c.1 < d.1 := by
  induction m with
  | nil => simp [Memory.set]
  | cons c m ih =>
    obtain ⟨hc, hm⟩ := List.pairwise_cons.1 h
    simp only [Memory.set]
    split
    · rename_i hlt
      refine List.pairwise_cons.2 ⟨fun d hd => ?_, h⟩
      rcases List.mem_cons.1 hd with rfl | hd
      · exact hlt
      · exact Nat.lt_trans hlt (hc d hd)
    · split
      · rename_i heq
        exact List.pairwise_cons.2 ⟨fun d hd => by simpa [heq] using hc d hd, hm⟩
      · rename_i hlt hne
        refine List.pairwise_cons.2 ⟨fun d hd => ?_, ih hm⟩
        rcases Memory.mem_set hd with rfl | hd
        · exact Nat.lt_of_le_of_ne (Nat.le_of_not_lt hlt) (Ne.symm hne)
        · exact hc d hd

theorem Memory.set_wf {m : List Host.Cell} {a : Nat} (v : Byte) (h : Memory.wf m) (ha : isBufferByte a = true) :
    Memory.wf (Memory.set m a v) := by
  refine ⟨Memory.set_rising a v h.1, fun c hc => ?_⟩
  rcases Memory.mem_set hc with rfl | hc
  · exact ha
  · exact h.2 c hc

theorem Memory.nil_wf : Memory.wf [] := by simp [Memory.wf]

/-! One byte. -/

@[simp] theorem State.readByte_setByte_same (s : State) (a : Nat) (v : Byte) : (s.setByte a v).readByte a = v := by
  simp [State.readByte, Memory.get?_set_same]

theorem State.readByte_setByte_other (s : State) {a b : Nat} (v : Byte) (h : b ≠ a) :
    (s.setByte a v).readByte b = s.readByte b := by
  simp [State.readByte, State.unwritten, Memory.get?_set_other _ v h]

/-- A byte is read from `mem` and the number of draws, and from nothing else. -/
theorem State.readByte_congr {s t : State} (hm : t.mem = s.mem) (hd : t.draws = s.draws) (a : Nat) :
    t.readByte a = s.readByte a := by
  simp [State.readByte, State.unwritten, hm, hd]

/-! A byte sequence. -/

/-- A store changes `mem` and nothing else. -/
theorem State.storeBytes_frame (s : State) (a : Nat) (bs : List Byte) :
    s.storeBytes a bs = { s with mem := (s.storeBytes a bs).mem } := by
  induction bs generalizing s a with
  | nil => rfl
  | cons b bs ih => rw [State.storeBytes, ih]; rfl

/-- A store does not depend on the model's record of the host and the schedule, and keeps it. -/
theorem State.storeBytes_host (s : State) (a : Nat) (bs : List Byte) (p : Nat) (q : Schedule) (r : Option Reply) :
    State.storeBytes { s with hpc := p, sched := q, reply := r } a bs =
      { s.storeBytes a bs with hpc := p, sched := q, reply := r } := by
  induction bs generalizing s a with
  | nil => rfl
  | cons b bs ih => exact ih (s.setByte a b) (a + 1)

theorem State.readByte_storeBytes_outside (s : State) {a b : Nat} (bs : List Byte) (h : b < a ∨ a + bs.length ≤ b) :
    (s.storeBytes a bs).readByte b = s.readByte b := by
  induction bs generalizing s a with
  | nil => rfl
  | cons v bs ih =>
    simp only [List.length_cons] at h
    rw [State.storeBytes, ih _ (by omega), State.readByte_setByte_other _ _ (by omega)]

theorem State.readByte_storeBytes_inside (s : State) (a : Nat) (bs : List Byte) (i : Nat) (h : i < bs.length) :
    (s.storeBytes a bs).readByte (a + i) = bs[i] := by
  induction bs generalizing s a i with
  | nil => simp at h
  | cons v bs ih =>
    rw [State.storeBytes]
    cases i with
    | zero => rw [State.readByte_storeBytes_outside _ _ (by omega)]; simp
    | succ i =>
      have := ih (s.setByte a v) (a + 1) i (by simpa using h)
      rw [show a + 1 + i = a + (i + 1) by omega] at this
      simpa using this

theorem State.storeBytes_wf (s : State) (a : Nat) (bs : List Byte) (h : Memory.wf s.mem)
    (ha : ∀ i < bs.length, isBufferByte (a + i) = true) : Memory.wf (s.storeBytes a bs).mem := by
  induction bs generalizing s a with
  | nil => exact h
  | cons b bs ih =>
    rw [State.storeBytes]
    refine ih _ _ ?_ fun i hi => ?_
    · exact Memory.set_wf b h (by simpa using ha 0 (by simp))
    · have := ha (i + 1) (by simpa using hi)
      rwa [show a + (i + 1) = a + 1 + i by omega] at this

/-! Strobed lanes. -/

theorem State.writeLane_frame (s : State) (a : Nat) (v : Word) (strb : BitVec 4) (k : Nat) :
    s.writeLane a v strb k = { s with mem := (s.writeLane a v strb k).mem } := by
  unfold State.writeLane
  split <;> rfl

theorem State.readByte_writeLane (s : State) (a : Nat) (v : Word) (strb : BitVec 4) (k b : Nat) :
    (s.writeLane a v strb k).readByte b =
      if b = a + k ∧ strb.getLsbD k = true then lane v k else s.readByte b := by
  unfold State.writeLane
  by_cases hs : strb.getLsbD k = true
  · by_cases hb : b = a + k
    · subst hb; simp [hs]
    · simp [hs, hb, State.readByte_setByte_other _ _ hb]
  · simp [hs]

theorem State.writeLane_wf (s : State) (a : Nat) (v : Word) (strb : BitVec 4) (k : Nat) (h : Memory.wf s.mem)
    (ha : isBufferByte (a + k) = true) : Memory.wf (s.writeLane a v strb k).mem := by
  unfold State.writeLane
  split
  · exact Memory.set_wf _ h ha
  · exact h

/-- The IBUF write changes `mem` and nothing else. -/
theorem State.writeLanes_frame (s : State) (a : Nat) (v : Word) (strb : BitVec 4) :
    s.writeLanes a v strb = { s with mem := (s.writeLanes a v strb).mem } := by
  unfold State.writeLanes
  rw [State.writeLane_frame, State.writeLane_frame (State.writeLane (State.writeLane s a v strb 0) a v strb 1),
    State.writeLane_frame (State.writeLane s a v strb 0), State.writeLane_frame s]

theorem State.writeLanes_wf (s : State) (a : Nat) (v : Word) (strb : BitVec 4) (h : Memory.wf s.mem)
    (ha : ∀ k < 4, isBufferByte (a + k) = true) : Memory.wf (s.writeLanes a v strb).mem :=
  State.writeLane_wf _ _ _ _ _ (State.writeLane_wf _ _ _ _ _ (State.writeLane_wf _ _ _ _ _
    (State.writeLane_wf _ _ _ _ _ h (ha 0 (by omega))) (ha 1 (by omega))) (ha 2 (by omega))) (ha 3 (by omega))

end Sys2Proof.Machine
end

