-- ==== Sys2Proof/Laws/Ops.lean ====
section
/-! SUPPORT. What each shared operation can do, said once: later proofs cite these cases and unfold nothing. -/

namespace Sys2Proof.Machine

/-- A submitted word is accepted if it decodes, and else its one error is raised. -/
theorem State.submit_cases (s : State) (w : Word) :
    (∃ i, decode w = .ok i ∧ s.submit w = s.accept w) ∨
      (∃ e, decode w = .error e ∧ s.submit w = s.raiseErr e) := by
  unfold State.submit
  cases h : decode w with
  | ok i => exact .inl ⟨i, rfl, rfl⟩
  | error e => exact .inr ⟨e, rfl, rfl⟩

/-- The decoder never raises the two codes that are not its own. -/
theorem decode_error_codes {w : Word} {e : ErrCode} (h : decode w = .error e) :
    e = .illegalOp ∨ e = .rsvdField ∨ e = .lenRange := by
  unfold decode at h
  split at h
  · cases h; simp
  · split at h
    · cases h; simp
    · split at h
      · cases h
      · cases h; simp

/-- The offsets at which IBUF lives. -/
theorem place_ibuf {off : Nat} (h : place off = .ibuf) : 0x100 ≤ off ∧ off < 0x120 := by
  unfold place at h
  split at h
  · cases h
  · split at h
    · assumption
    · split at h <;> cases h

/-- Everything a host write can do: nothing (BUSERR), a BUSY error, a register's write effect, or an IBUF write. -/
theorem memWrite_cases (s : State) (off : Offset) (v : Word) (strb : BitVec 4) :
    memWrite s off v strb = (s, .buserr) ∨
      (s.pend = true ∧ memWrite s off v strb = (s.raiseErr .busy, .okay)) ∨
      (∃ r, place off.toNat = .reg r ∧ r.writable = true ∧ strb = 0b1111#4 ∧ (r.busyGuarded && s.pend) = false ∧
        memWrite s off v strb = (s.writeReg v r, .okay)) ∨
      (place off.toNat = .ibuf ∧ off.toNat % 4 = 0 ∧ s.pend = false ∧
        memWrite s off v strb = (s.writeLanes off.toNat v strb, .okay)) := by
  unfold memWrite
  by_cases ha : off.toNat % 4 ≠ 0
  · simp [ha]
  · rw [if_neg ha]
    cases hp : place off.toNat with
    | reserved => simp
    | obuf => simp
    | ibuf =>
      by_cases hb : s.pend = true
      · simp [hb]
      · simp [hb, not_not.1 ha]
    | reg r =>
      by_cases hw : r.writable = false ∨ strb ≠ 0b1111#4
      · simp [hw]
      · obtain ⟨hw1, hw2⟩ := not_or.1 hw
        by_cases hg : (r.busyGuarded && s.pend) = true
        · refine .inr (.inl ⟨(Bool.and_eq_true _ _ ▸ hg).2, ?_⟩)
          simp [hw, hg]
        · refine .inr (.inr (.inl ⟨r, rfl, by simpa using hw1, not_not.1 hw2, by simpa using hg, ?_⟩))
          simp [hw, hg]

/-- What a host turn leaves of the model's own record of the host and the schedule. -/
theorem memWrite_host (s : State) (off : Offset) (v : Word) (strb : BitVec 4) :
    (memWrite s off v strb).1.prog = s.prog ∧ (memWrite s off v strb).1.hpc = s.hpc ∧
      (memWrite s off v strb).1.sched = s.sched ∧ (memWrite s off v strb).1.reply = s.reply ∧
      (memWrite s off v strb).1.draws = s.draws := by
  rcases memWrite_cases s off v strb with h | ⟨-, h⟩ | ⟨r, -, hr, -, -, h⟩ | ⟨-, -, -, h⟩
  · simp [h]
  · simp [h]
  · rw [h]
    cases r with
    | ctrl => simp only [State.writeReg, State.writeCtrl]; split <;> simp
    | status => simp only [State.writeReg, State.writeStatus]; split <;> split <;> simp
    | cmd => rcases State.submit_cases s v with ⟨i, -, h⟩ | ⟨e, -, h⟩ <;> simp [State.writeReg, h]
    | arg => simp [State.writeReg]
    | crc => simp [State.writeReg]
    | id | caps | res | olen => simp [Reg.writable] at hr
  · rw [h, State.writeLanes_frame]; simp

/-- Everything a command's completion can do when it answers a next state: write RES or CRC and complete, or take the
output of the deflate kernel for an input of at most 4 bytes. -/
theorem exec_next_cases {i : Instr} {s t : State} (h : exec i s = .next t) :
    (∃ r c, t = State.completeOk { s with res := r, crc := c }) ∨
      (∃ input, input.length ≤ 4 ∧ t = s.deflateInto Config.obufBytes (dfl9 input)) := by
  cases i with
  | nop => exact .inl ⟨s.res, s.crc, by cases h; rfl⟩
  | bswap => exact .inl ⟨_, s.crc, by cases h; rfl⟩
  | crcInit => exact .inl ⟨s.res, _, by cases h; rfl⟩
  | crcByte imm8 => exact .inl ⟨s.res, _, by cases h; rfl⟩
  | crcWord => exact .inl ⟨s.res, _, by cases h; rfl⟩
  | crcBuf src len =>
    simp only [exec, execCrcBuf] at h
    split at h
    · exact .inl ⟨s.res, _, by cases h; rfl⟩
    · cases h
  | crcFinal => exact .inl ⟨_, s.crc, by cases h; rfl⟩
  | crcBlock src len =>
    simp only [exec, execCrcBlock] at h
    split at h
    · exact .inl ⟨_, s.crc, by cases h; rfl⟩
    · cases h
  | deflate len =>
    simp only [exec, execDeflate] at h
    split at h
    · rename_i hl
      refine .inr ⟨s.bufBytes .ibuf (lenOperand len), ?_, by cases h; rfl⟩
      have hle : lenOperand len ≤ 4 := of_decide_eq_true hl
      simpa [State.bufBytes] using hle
    · cases h

/-- A command's completion does not depend on the model's record of the host and the schedule, and keeps it. -/
theorem exec_host {i : Instr} {s t : State} (h : exec i s = .next t) (p : Nat) (q : Schedule) (r : Option Reply) :
    exec i { s with hpc := p, sched := q, reply := r } = .next { t with hpc := p, sched := q, reply := r } := by
  cases i with
  | crcBuf src len =>
    simp only [exec, execCrcBuf] at h ⊢
    split at h
    · rename_i hl; cases h; rw [if_pos hl]; rfl
    · cases h
  | crcBlock src len =>
    simp only [exec, execCrcBlock] at h ⊢
    split at h
    · rename_i hl; cases h; rw [if_pos hl]; rfl
    · cases h
  | deflate len =>
    simp only [exec, execDeflate] at h ⊢
    split at h
    · rename_i hl
      cases h
      rw [if_pos hl]
      have hb : State.bufBytes { s with hpc := p, sched := q, reply := r } .ibuf (lenOperand len) =
          s.bufBytes .ibuf (lenOperand len) := rfl
      simp only [State.deflateInto, hb]
      split
      · rfl
      · rw [State.storeBytes_host]; rfl
    · cases h
  | _ => cases h; rfl

/-- A host write does not depend on the schedule, and keeps it. -/
theorem memWrite_sched (s : State) (q : Schedule) (off : Offset) (v : Word) (strb : BitVec 4) :
    memWrite { s with sched := q } off v strb =
      ({ (memWrite s off v strb).1 with sched := q }, (memWrite s off v strb).2) := by
  unfold memWrite
  split
  · rfl
  · split
    · rename_i r _
      split
      · rfl
      · split
        · rfl
        · cases r with
          | ctrl => simp only [State.writeReg, State.writeCtrl]; split <;> rfl
          | status => simp only [State.writeReg, State.writeStatus]; split <;> split <;> rfl
          | cmd => simp only [State.writeReg, State.submit]; split <;> rfl
          | _ => rfl
    · split
      · rfl
      · simp only [State.writeLanes, State.writeLane]
        cases strb.getLsbD 0 <;> cases strb.getLsbD 1 <;> cases strb.getLsbD 2 <;> cases strb.getLsbD 3 <;> rfl
    · rfl
    · rfl

/-- Everything that can make the next event: a listed turn; past them, within a round's length, a hardware reset or the
host; and at its end the engine where a command is in flight, and else the host. -/
theorem State.nextTurn_cases (s : State) :
    (∃ turn rest, s.sched.listed = turn :: rest ∧ s.nextTurn = (turn, { s.sched with listed := rest })) ∨
      (s.sched.listed = [] ∧ s.sched.spent < Config.busyLatency s.sched.round ∧
        s.nextTurn.2 = { s.sched with spent := s.sched.spent + 1 } ∧
        (s.nextTurn.1 = .hardwareReset ∨ s.nextTurn.1 = .host)) ∨
      (s.sched.listed = [] ∧ Config.busyLatency s.sched.round ≤ s.sched.spent ∧
        s.nextTurn = (if s.pend then .engine else .host, { s.sched with round := s.sched.round + 1, spent := 0 })) := by
  unfold State.nextTurn
  split
  · rename_i turn rest h
    exact .inl ⟨turn, rest, h, rfl⟩
  · rename_i h
    split
    · rename_i hl
      refine .inr (.inl ⟨h, hl, rfl, ?_⟩)
      cases Config.resetComes s.sched.round s.sched.spent <;> simp
    · rename_i hl
      exact .inr (.inr ⟨h, Nat.le_of_not_lt hl, rfl⟩)

/-- Everything a step can do when it answers a next state. -/
theorem step_next_cases {s t : State} (h : step s = .next t) :
    (s.nextTurn.1 = .host ∧ t = State.hostTurn { s with sched := s.nextTurn.2 }) ∨
      (s.nextTurn.1 = .hardwareReset ∧ t = State.hardwareReset { s with sched := s.nextTurn.2 }) ∨
      (s.nextTurn.1 = .engine ∧ s.pend = false ∧ t = { s with sched := s.nextTurn.2 }) ∨
      (s.nextTurn.1 = .engine ∧ s.pend = true ∧ ∃ i, decode s.cmd = .ok i ∧
        exec i { s with sched := s.nextTurn.2 } = .next t) := by
  unfold step at h
  generalize hn : s.nextTurn = n at h ⊢
  obtain ⟨turn, rest⟩ := n
  cases turn with
  | host => exact .inl ⟨rfl, by cases h; rfl⟩
  | hardwareReset => exact .inr (.inl ⟨rfl, by cases h; rfl⟩)
  | engine =>
    refine .inr (.inr ?_)
    simp only [State.runTurn, State.engineTurn, State.complete] at h
    split at h
    · rename_i hp
      split at h
      · rename_i i hd
        exact .inr ⟨rfl, hp, i, hd, h⟩
      · cases h
    · rename_i hp
      exact .inl ⟨rfl, by simpa using hp, by cases h; rfl⟩

end Sys2Proof.Machine
end

