-- ==== Sys2Proof/Laws/PerInstr.lean ====
section
/-! SUPPORT. Statements made for each command as syntax, one lemma per constructor of Instr. -/

namespace Sys2Proof.Laws.OpcodeRow

open Sys2Proof.Safety

/-- The word of a command matches a row of 30_encoding.md R93 whose fields spell that command again. -/
def Statement (i : Instr) : Prop :=
  ∃ r ∈ opcodeRows, encode i &&& r.mask = r.pattern ∧ r.command (encode i) = i

theorem nop : Statement .nop := by simp [Statement, opcodeRows, encode]

theorem bswap : Statement .bswap := by simp [Statement, opcodeRows, encode]

theorem crcInit : Statement .crcInit := by simp [Statement, opcodeRows, encode]

theorem crcByte (imm8 : Byte) : Statement (.crcByte imm8) := by
  refine ⟨opcodeRows[3], by simp [opcodeRows], ?_⟩
  simp only [opcodeRows, encode, List.getElem_cons_succ, List.getElem_cons_zero, Instr.crcByte.injEq]
  refine ⟨?_, ?_⟩
  · ext i hi; simp; interval_cases i <;> simp
  · ext i hi; simp

theorem crcWord : Statement .crcWord := by simp [Statement, opcodeRows, encode]

theorem crcBuf (src : Buf) (len : BitVec 16) : Statement (.crcBuf src len) := by
  refine ⟨opcodeRows[5], by simp [opcodeRows], ?_⟩
  simp only [opcodeRows, encode, List.getElem_cons_succ, List.getElem_cons_zero, Instr.crcBuf.injEq]
  cases src
  all_goals
    refine ⟨?_, by simp [srcBits], ?_⟩
    · ext i hi; simp [srcBits]; interval_cases i <;> simp
    · ext i hi; simp [srcBits]

theorem crcFinal : Statement .crcFinal := by simp [Statement, opcodeRows, encode]

theorem crcBlock (src : Buf) (len : BitVec 16) : Statement (.crcBlock src len) := by
  refine ⟨opcodeRows[7], by simp [opcodeRows], ?_⟩
  simp only [opcodeRows, encode, List.getElem_cons_succ, List.getElem_cons_zero, Instr.crcBlock.injEq]
  cases src
  all_goals
    refine ⟨?_, by simp [srcBits], ?_⟩
    · ext i hi; simp [srcBits]; interval_cases i <;> simp
    · ext i hi; simp [srcBits]

theorem deflate (len : BitVec 16) : Statement (.deflate len) := by
  refine ⟨opcodeRows[8], by simp [opcodeRows], ?_⟩
  simp only [opcodeRows, encode, List.getElem_cons_succ, List.getElem_cons_zero, Instr.deflate.injEq]
  refine ⟨?_, ?_⟩
  · ext i hi; simp; interval_cases i <;> simp
  · ext i hi; simp

end Sys2Proof.Laws.OpcodeRow
end

