-- ==== Sys2Proof/Tests/Slice0.lean ====
section
/-! SUPPORT. The model's own tests. A test's expected result is a row of spec/95_test_vectors.md or a rule's own example,
named in its docstring; a witness shows a state and operands that meet a statement's hypotheses together. -/

open Sys2Proof Sys2Proof.Machine Sys2Proof.Safety

/-! ## Small states -/

/-- The next state of an outcome, if it is one. -/
def Test.nextOf : Host.Outcome State Fault Refusal → Option State
  | .next t => some t
  | .fault _ => none
  | .refused _ => none

/-- An idle engine with a value in every register; the host makes the next event. -/
def Test.idle : State :=
  { State.reset with
    arg := 0x49454E44#32
    crc := 0xFFFFFFFF#32
    res := 0x0000AAAA#32
    sched := ⟨[.host], 0, 0⟩
    mem := [(0x100, 0x00#8), (0x101, 0xFF#8), (0x102, 0x00#8), (0x103, 0xAA#8)] }

/-- The same engine with a DEFLATE in flight; the engine makes the next event. -/
def Test.busy : State := { Test.idle with cmd := 0x80000004#32, pend := true, sched := ⟨[.engine], 0, 0⟩ }

/-- The same engine after an error of code 4. -/
def Test.failed : State := { Test.idle with err := true, ecode := 4#4 }

/-! ## Well-formedness: one ill-formed command for each check, which the check and the decoder refuse -/

theorem test_illformed_crcBuf_ibuf : (Instr.crcBuf .ibuf 33#16).wf = false := by decide
theorem test_illformed_crcBuf_obuf : (Instr.crcBuf .obuf 65#16).wf = false := by decide
theorem test_illformed_crcBlock_ibuf : (Instr.crcBlock .ibuf 33#16).wf = false := by decide
theorem test_illformed_crcBlock_obuf : (Instr.crcBlock .obuf 65#16).wf = false := by decide
theorem test_illformed_deflate : (Instr.deflate 5#16).wf = false := by decide
theorem test_wellformed_bounds :
    [Instr.crcBuf .ibuf 32#16, .crcBuf .obuf 64#16, .crcBlock .ibuf 32#16, .crcBlock .obuf 64#16, .deflate 4#16,
      .nop, .bswap, .crcInit, .crcByte 0xFF#8, .crcWord, .crcFinal].all Instr.wf = true := by decide

/-! ## Decoding: every command's word, written out from 30_encoding.md R90 as OP ++ SRC ++ Z ++ OPD -/

theorem test_decode_nop : decode (0x0#4 ++ 0#1 ++ 0#11 ++ 0#16) = .ok .nop := by decide
theorem test_decode_bswap : decode (0x1#4 ++ 0#1 ++ 0#11 ++ 0#16) = .ok .bswap := by decide
theorem test_decode_crcInit : decode (0x2#4 ++ 0#1 ++ 0#11 ++ 0#16) = .ok .crcInit := by decide
theorem test_decode_crcByte : decode (0x3#4 ++ 0#1 ++ 0#11 ++ (0#8 ++ 0xA5#8)) = .ok (.crcByte 0xA5#8) := by decide
theorem test_decode_crcWord : decode (0x4#4 ++ 0#1 ++ 0#11 ++ 0#16) = .ok .crcWord := by decide
theorem test_decode_crcBuf_ibuf : decode (0x5#4 ++ 0#1 ++ 0#11 ++ 13#16) = .ok (.crcBuf .ibuf 13#16) := by decide
theorem test_decode_crcBuf_obuf : decode (0x5#4 ++ 1#1 ++ 0#11 ++ 64#16) = .ok (.crcBuf .obuf 64#16) := by decide
theorem test_decode_crcFinal : decode (0x6#4 ++ 0#1 ++ 0#11 ++ 0#16) = .ok .crcFinal := by decide
theorem test_decode_crcBlock_ibuf : decode (0x7#4 ++ 0#1 ++ 0#11 ++ 32#16) = .ok (.crcBlock .ibuf 32#16) := by decide
theorem test_decode_crcBlock_obuf : decode (0x7#4 ++ 1#1 ++ 0#11 ++ 12#16) = .ok (.crcBlock .obuf 12#16) := by decide
theorem test_decode_deflate : decode (0x8#4 ++ 0#1 ++ 0#11 ++ 4#16) = .ok (.deflate 4#16) := by decide

/-- V-DEC-02, 03, 05, 07 to 10; V-CRC-20, 22, 23; V-DFL-15, 16, 18; V-BSW-12. -/
theorem test_decode_rejects :
    [0x00000001#32, 0x18000000#32, 0x50010000#32, 0x58FF0041#32, 0x30000100#32, 0x88000004#32, 0x10000001#32].map
        decode = List.replicate 7 (.error .rsvdField) ∧
      [0x90000000#32, 0xF0000000#32, 0x9FFFFFFF#32].map decode = List.replicate 3 (.error .illegalOp) ∧
      [0x50000021#32, 0x58000041#32, 0x80000005#32, 0x8000FFFF#32].map decode =
        List.replicate 4 (.error .lenRange) := by decide

/-- The table word of a row with its operand bits zero is the row's command; a longer word is none. -/
theorem test_decodeTableWord :
    decodeTableWord 32 0x80000004 = some (.deflate 4#16) ∧ decodeTableWord 32 0x90000000 = none ∧
      decodeTableWord 40 0 = none := by decide

/-! ## One step of each command -/

/-- V-DEC-01: NOP accepted from STATUS = 0 completes with STATUS = 0x00000002. -/
theorem test_nop_status :
    (Test.nextOf (exec .nop (memWrite Test.idle offCmd 0x00000000#32 0b1111#4).1)).map State.statusWord =
      some 0x00000002#32 := by decide

/-- V-BSW-03. -/
theorem test_bswap_result :
    (Test.nextOf (exec .bswap { Test.idle with arg := 0x12345678#32 })).map State.res = some 0x78563412#32 := by decide

/-- V-BSW-07, 08, 09: no palindrome of digits, a palindrome of bytes, and the two end bits. -/
theorem test_bswap_vectors :
    [0x80000001#32, 0x12344321#32, 0x12333312#32].map bswap = [0x01000080#32, 0x21433412#32, 0x12333312#32] := by decide

/-- V-CRC-01. -/
theorem test_crcInit_result :
    (Test.nextOf (exec .crcInit { Test.idle with crc := 0x12345678#32 })).map State.crc = some 0xFFFFFFFF#32 := by decide

/-- V-CRC-02. -/
theorem test_crcByte_zero :
    (Test.nextOf (exec (.crcByte 0x00#8) Test.idle)).map State.crc = some 0x2DFD1072#32 := by decide +kernel

/-- V-CRC-08. -/
theorem test_crcByte_letter :
    (Test.nextOf (exec (.crcByte 0x61#8) Test.idle)).map State.crc = some 0x174841BC#32 := by decide +kernel

/-- V-CRC-10: the word is fed most significant byte first. -/
theorem test_crcWord_tag :
    (Test.nextOf (exec .crcWord Test.idle)).map State.crc = some 0x51BD9F7D#32 := by decide +kernel

/-- V-CRC-09: the check value's state. -/
theorem test_crcBuf_check :
    (Test.nextOf (exec (.crcBuf .ibuf 9#16)
      { Test.idle with
        mem := [(0x100, 0x31#8), (0x101, 0x32#8), (0x102, 0x33#8), (0x103, 0x34#8), (0x104, 0x35#8), (0x105, 0x36#8),
          (0x106, 0x37#8), (0x107, 0x38#8), (0x108, 0x39#8)] })).map State.crc = some 0x340BC6D9#32 := by
  decide +kernel

/-- V-CRC-17: LEN = 0 leaves CRC and still completes. -/
theorem test_crcBuf_empty :
    (Test.nextOf (exec (.crcBuf .ibuf 0#16) { Test.busy with crc := 0x51BD9F7D#32 })).map
      (fun t => (t.crc, t.done, t.pend)) = some (0x51BD9F7D#32, true, false) := by decide

/-- V-CRC-18: the complement, with CRC unchanged. -/
theorem test_crcFinal_result :
    (Test.nextOf (exec .crcFinal { Test.idle with crc := 0x51BD9F7D#32 })).map (fun t => (t.res, t.crc)) =
      some (0xAE426082#32, 0x51BD9F7D#32) := by decide

/-- V-CRC-12: the trailer block's checksum, CRC untouched. -/
theorem test_crcBlock_empty :
    (Test.nextOf (exec (.crcBlock .ibuf 0#16) { Test.idle with crc := 0x12345678#32 })).map
      (fun t => (t.res, t.crc)) = some (0xAE426082#32, 0x12345678#32) := by decide +kernel

/-- V-CRC-14: over OBUF. -/
theorem test_crcBlock_obuf :
    (Test.nextOf (exec (.crcBlock .obuf 12#16)
      { Test.idle with
        arg := 0x49444154#32
        mem := [(0x200, 0x78#8), (0x201, 0xDA#8), (0x202, 0x63#8), (0x203, 0xF8#8), (0x204, 0xCF#8), (0x205, 0xB0#8),
          (0x206, 0x0A#8), (0x207, 0x00#8), (0x208, 0x03#8), (0x209, 0xAB#8), (0x20A, 0x01#8),
          (0x20B, 0xAA#8)] })).map State.res = some 0x581C204E#32 := by decide +kernel

/-- V-DFL-09: OLEN and the twelve bytes of OBUF for 00 FF 00 AA. -/
theorem test_deflate_pixel :
    (Test.nextOf (exec (.deflate 4#16) Test.busy)).map
      (fun t => (t.olen, (List.range 12).map fun i => t.readByte (0x200 + i))) =
        some (12#32, [0x78#8, 0xDA#8, 0x63#8, 0xF8#8, 0xCF#8, 0xB0#8, 0x0A#8, 0x00#8, 0x03#8, 0xAB#8, 0x01#8, 0xAA#8]) := by
  decide +kernel

/-- V-DFL-17: bytes above OLEN keep what an earlier DEFLATE left. -/
theorem test_deflate_keeps_above_olen :
    (Test.nextOf (exec (.deflate 0#16) { Test.busy with mem := [(0x207, 0x55#8), (0x208, 0x03#8)] })).map
      (fun t => (t.olen, t.readByte 0x207, t.readByte 0x208)) = some (8#32, 0x01#8, 0x03#8) := by decide +kernel

/-- V-DFL-01, 03, 05, 11: empty input, a 9-bit literal, the 143/144 boundary, the longest codes. -/
theorem test_dfl9_vectors :
    dfl9 [] = [0x78#8, 0xDA#8, 0x03#8, 0x00#8, 0x00#8, 0x00#8, 0x00#8, 0x01#8] ∧
      dfl9 [0xFF#8] = [0x78#8, 0xDA#8, 0xFB#8, 0x0F#8, 0x00#8, 0x01#8, 0x00#8, 0x01#8, 0x00#8] ∧
      dfl9 [0x8F#8, 0x90#8] = [0x78#8, 0xDA#8, 0xEB#8, 0x9F#8, 0x00#8, 0x00#8, 0x01#8, 0xB0#8, 0x01#8, 0x20#8] ∧
      dfl9 [0xFF#8, 0xFF#8, 0xFF#8, 0xFF#8] =
        [0x78#8, 0xDA#8, 0xFB#8, 0xFF#8, 0xFF#8, 0xFF#8, 0x7F#8, 0x00#8, 0x09#8, 0xFA#8, 0x03#8, 0xFD#8] := by
  decide +kernel

/-- 42_deflate.md R171: the bit trace of 00 FF 00 AA before padding. -/
theorem test_block_bits_trace :
    blockBits [0x00#8, 0xFF#8, 0x00#8, 0xAA#8] =
      [true, true, false,
        false, false, true, true, false, false, false, false,
        true, true, true, true, true, true, true, true, true,
        false, false, true, true, false, false, false, false,
        true, true, false, true, false, true, false, true, false,
        false, false, false, false, false, false, false] := by decide +kernel

/-! ## The window, errors and resets -/

/-- V-BUS-01 to 04, 09, 10: reads and their responses. -/
theorem test_bus_reads :
    memRead Test.idle 0x000#12 = (0x504E4731#32, .okay) ∧ memRead Test.idle 0x004#12 = (0x00044020#32, .okay) ∧
      memRead Test.idle 0x002#12 = (0#32, .buserr) ∧ memRead Test.idle 0x024#12 = (0#32, .buserr) ∧
      memRead Test.idle 0x120#12 = (0#32, .buserr) ∧ memRead Test.idle 0x240#12 = (0#32, .buserr) ∧
      (memRead Test.idle 0x11C#12).2 = .okay ∧ (memRead Test.idle 0x23C#12).2 = .okay ∧
      memRead Test.idle 0x100#12 = (0xAA00FF00#32, .okay) := by decide

/-- V-BUS-05 to 07, 11: writes answered BUSERR leave the state. -/
theorem test_bus_write_errors :
    memWrite Test.idle 0x000#12 1#32 0b1111#4 = (Test.idle, .buserr) ∧
      memWrite Test.idle offRes 5#32 0b1111#4 = (Test.idle, .buserr) ∧
      memWrite Test.idle offArg 1#32 0b0011#4 = (Test.idle, .buserr) ∧
      memWrite Test.idle offObuf 0#32 0b1111#4 = (Test.idle, .buserr) := by decide

/-- V-BUS-08: one strobed lane of IBUF. -/
theorem test_bus_strobed_lane :
    (memWrite Test.idle offIbuf 0x0000AB00#32 0b0010#4).1.mem =
      [(0x100, 0x00#8), (0x101, 0xAB#8), (0x102, 0x00#8), (0x103, 0xAA#8)] := by decide

/-- V-BUS-12: a write with no strobe is still rejected while BUSY = 1. -/
theorem test_bus_busy_no_strobe :
    (memWrite Test.busy offIbuf 0#32 0b0000#4).2 = .okay ∧
      (memWrite Test.busy offIbuf 0#32 0b0000#4).1.statusWord = 0x00000015#32 := by decide

/-- V-DEC-02, 07: STATUS after a rejected word. -/
theorem test_rejected_status :
    (memWrite Test.idle offCmd 0x00000001#32 0b1111#4).1.statusWord = 0x00000034#32 ∧
      (memWrite Test.idle offCmd 0x90000000#32 0b1111#4).1.statusWord = 0x00000024#32 := by decide

/-- V-DEC-11: ECODE keeps the first code. -/
theorem test_first_code_kept :
    (memWrite (memWrite Test.idle offCmd 0x80000005#32 0b1111#4).1 offCmd 0x90000000#32 0b1111#4).1.statusWord =
      0x00000044#32 := by decide

/-- V-DEC-13: STATUS write-1-to-clear. -/
theorem test_status_clear :
    State.statusWord { Test.failed with done := true } = 0x00000046#32 ∧
      (memWrite { Test.failed with done := true } offStatus 0xFFFFFFFF#32 0b1111#4).1.statusWord = 0#32 := by decide

/-- V-DEC-14, V-DEC-15: CTRL writes. -/
theorem test_ctrl_writes :
    (memWrite Test.idle offCtrl 0x7FFFFFFF#32 0b1111#4).1.ctrlWord = 0x00000003#32 ∧
      (memWrite Test.idle offCtrl 0x80000003#32 0b1111#4).1.ctrlWord = 0x00000000#32 ∧
      (memWrite Test.idle offCtrl 0x80000003#32 0b1111#4).1.mem = Test.idle.mem := by decide

/-- V-DEC-16, V-DEC-17: the interrupt line. -/
theorem test_irq :
    (memWrite { Test.idle with ieErr := true } offCmd 0x90000000#32 0b1111#4).1.irq = true ∧
      (Test.nextOf (exec .nop { Test.idle with ieDone := true })).map State.irq = some true := by decide

/-- V-RST-02, V-RST-03: a soft reset discards the command in flight and keeps IBUF. -/
theorem test_soft_reset :
    (memWrite Test.busy offCtrl 0x80000000#32 0b1111#4).1 =
      { State.reset with
        sched := Test.busy.sched
        mem := [(0x100, 0x00#8), (0x101, 0xFF#8), (0x102, 0x00#8), (0x103, 0xAA#8)] } := by decide

/-- V-DEC-12: a BUSY error leaves the command in flight, and its completion sets DONE; the step is the engine's. -/
theorem test_busy_error_then_completion :
    (Test.nextOf (step (memWrite { Test.busy with cmd := 0#32 } offCmd 0x10000000#32 0b1111#4).1)).map
      State.statusWord = some 0x00000016#32 := by decide

/-- After `withFetchWord` the very next step runs the word, from reset. -/
theorem test_fetch_word_runs :
    (Test.nextOf (step (State.reset.withFetchWord 32 0x10000000))).map (fun t => (t.cmd, t.done, t.pend)) =
      some (0x10000000#32, true, false) := by decide

/-! ## Witnesses: a state and operands that meet each statement's hypotheses -/

/-- `DecodeIsTheOpcodeMap`: an unassigned opcode at each end of its range. -/
theorem witness_DecodeIsTheOpcodeMap : 9 ≤ opOf 0x90000000#32 ∧ 9 ≤ opOf 0xFFFFFFFF#32 ∧
    decode 0x58000040#32 = .ok (.crcBuf .obuf 64#16) := by decide

theorem witness_DecodeOfEncodeIsTheCommand : (Instr.crcBlock .obuf 64#16).wf = true := by decide

theorem witness_EncodeOfDecodeIsTheWord : decode 0x78000040#32 = .ok (.crcBlock .obuf 64#16) := by decide

/-- `DecodeChecksInOrder`, one word for each clause at the edge of its range. -/
theorem witness_DecodeChecksInOrder :
    9 ≤ opOf 0x90000000#32 ∧
      (opOf 0x88000005#32 ≤ 8 ∧ 0x88000005#32 &&& mbzOf (opOf 0x88000005#32) ≠ 0#32) ∧
      (opOf 0x80000005#32 ≤ 8 ∧ 0x80000005#32 &&& mbzOf (opOf 0x80000005#32) = 0#32) ∧
      (opOf 0x80000004#32 ≤ 8 ∧ 0x80000004#32 &&& mbzOf (opOf 0x80000004#32) = 0#32) := by decide

theorem witness_DecodeChecksInOrder_lengths :
    lenTooLong 0x80000005#32 ∧ ¬ lenTooLong 0x80000004#32 ∧ lenTooLong 0x50000021#32 ∧ ¬ lenTooLong 0x50000020#32 ∧
      lenTooLong 0x58000041#32 ∧ ¬ lenTooLong 0x58000040#32 := by unfold lenTooLong; decide

/-- `AssemblerWritesTheTableWords`: both sides of each bound. -/
theorem witness_AssemblerWritesTheTableWords :
    assemble "CRC_BYTE" [.num 255] = some 0x300000FF#32 ∧ assemble "CRC_BYTE" [.num 256] = none ∧
      assemble "DEFLATE" [.num 65535] = some 0x8000FFFF#32 ∧ assemble "DEFLATE" [.num 65536] = none ∧
      (Instr.deflate 0xFFFF#16).wf = false := by decide

/-- `ReadWindow`: an offset at each edge of each clause. -/
theorem witness_ReadWindow :
    (0x001#12).toNat % 4 ≠ 0 ∧ (0xFFF#12).toNat % 4 ≠ 0 ∧
      [0x100#12, 0x11C#12, 0x200#12, 0x23C#12].map (fun off => (memRead Test.idle off).2) =
        List.replicate 4 .okay ∧
      [0x024#12, 0x0FC#12, 0x120#12, 0x1FC#12, 0x240#12, 0xFFC#12].map (fun off => (memRead Test.idle off).2) =
        List.replicate 6 .buserr := by decide

/-- `WriteWindow`: each clause, the IBUF ones at both ends of its window. -/
theorem witness_WriteWindow :
    (0x101#12).toNat % 4 ≠ 0 ∧ (0b0111#4 : BitVec 4) ≠ 0b1111#4 ∧ Test.busy.pend = true ∧ Test.idle.pend = false ∧
      [0x100#12, 0x11C#12].map (fun off => (memWrite Test.busy off 0#32 0b0001#4).2) = List.replicate 2 .okay ∧
      [0x100#12, 0x11C#12].map (fun off => (memWrite Test.idle off 0#32 0b0001#4).2) = List.replicate 2 .okay ∧
      [0x024#12, 0x0FC#12, 0x120#12, 0xFFC#12].map (fun off => (memWrite Test.idle off 0#32 0b1111#4).2) =
        List.replicate 4 .buserr := by decide

theorem witness_StrobedWriteThenWordRead :
    Test.idle.pend = false ∧ (0x11C#12).toNat % 4 = 0 ∧ 0x100 ≤ (0x11C#12).toNat ∧ (0x11C#12).toNat < 0x120 ∧
      (0b1000#4).getLsbD 3 = true ∧ (0b1000#4).getLsbD 2 = false := by decide

/-- `CtrlRegister`: bit 31 set and clear, and an enabled DONE and ERR. -/
theorem witness_CtrlRegister :
    (0x80000003#32).getLsbD 31 = true ∧ (0x7FFFFFFF#32).getLsbD 31 = false ∧
      State.irq { Test.idle with ieDone := true, done := true } = true ∧
      State.irq { Test.failed with ieErr := true } = true := by decide

/-- `WritesWhileBusyAreRejected`, with a step after which the command is still in flight. -/
theorem witness_WritesWhileBusyAreRejected :
    Test.busy.pend = true ∧ Test.busy.err = false ∧
      (Test.nextOf (step { Test.busy with sched := ⟨[.host], 0, 0⟩ })).map State.pend = some true := by decide

/-- `CommandAcceptance`, `StatusAfterEachEvent`: the three cases of a CMD write. -/
theorem witness_CommandAcceptance :
    Test.busy.pend = true ∧ Test.idle.pend = false ∧ decode 0x90000000#32 = .error .illegalOp ∧
      decode 0x10000000#32 = .ok .bswap := by decide

theorem witness_StatusAfterEachEvent :
    Test.idle.pend = false ∧ Test.idle.err = false ∧ Test.failed.err = true ∧ Test.failed.pend = false ∧
      decode 0x80000004#32 = .ok (.deflate 4#16) ∧ decode 0x80000005#32 = .error .lenRange ∧
      (Instr.deflate 4#16).wf = true ∧ 11 < (dfl9 [0#8, 0#8, 0#8, 0#8]).length ∧
      (0x2#32).getLsbD 1 = true ∧ (0x2#32).getLsbD 2 = false ∧ (0x4#32).getLsbD 2 = true ∧
      (0x4#32).getLsbD 1 = false := by decide +kernel

theorem witness_RaiseErrRecordsTheFirstCode : Test.idle.err = false ∧ Test.failed.err = true := by decide

theorem witness_ErrorReturnClearsErrAndCode :
    (0x00000004#32).getLsbD 2 = true ∧ Test.failed.err = true ∧ Test.failed.pend = false ∧
      decode 0x00000000#32 = .ok .nop := by decide

/-- `LowestErrorCodeWins`: a word with three causes while busy, and one with none. -/
theorem witness_LowestErrorCodeWins :
    causes Test.busy 0x58FF0041#32 .busy ∧ causes Test.busy 0x58FF0041#32 .rsvdField ∧
      causes Test.busy 0x58FF0041#32 .lenRange ∧
      (∀ e, causes Test.busy 0x58FF0041#32 e → ErrCode.busy.code.toNat ≤ e.code.toNat) := by
  refine ⟨by unfold causes; decide, by unfold causes; decide, by unfold causes lenTooLong; decide, fun e _ => ?_⟩
  cases e <;> decide

theorem witness_LowestErrorCodeWins_none : ∀ e, ¬ causes Test.idle 0x58000040#32 e := by
  intro e
  cases e <;> unfold causes
  · decide
  · decide
  · decide
  · unfold lenTooLong; decide
  · exact id

theorem witness_EngineStepRunsTheDecodedCommand :
    Test.busy.pend = true ∧ Test.busy.nextTurn.1 = .engine ∧ decode Test.busy.cmd = .ok (.deflate 4#16) := by decide

theorem witness_FetchWordIsRunNext : decodeTableWord 32 0x58000040 = some (.crcBuf .obuf 64#16) := by decide

/-- The two hypotheses of `rejects`, for the word of each command with its lowest must-be-zero bit set. -/
theorem witness_rejects :
    Test.busy.pend = true ∧ Test.idle.pend = false ∧
      [(0x00000001#32, 0x0FFFFFFF#32), (0x10000001#32, 0x0FFFFFFF#32), (0x20000001#32, 0x0FFFFFFF#32),
        (0x30000100#32, 0x0FFFFF00#32), (0x40000001#32, 0x0FFFFFFF#32), (0x50010000#32, 0x07FF0000#32),
        (0x60000001#32, 0x0FFFFFFF#32), (0x70010000#32, 0x07FF0000#32), (0x80010000#32, 0x0FFF0000#32)].all
          (fun p => p.1 &&& p.2 != 0#32) = true := by decide

theorem witness_NopRule : State.reset.statusWord = 0x00000000#32 ∧ State.reset.pend = false := by decide

theorem witness_BswapRule :
    (0x12333312#32).extractLsb' 0 8 = (0x12333312#32).extractLsb' 24 8 ∧
      (0x12333312#32).extractLsb' 8 8 = (0x12333312#32).extractLsb' 16 8 := by decide

/-- `CrcBufRule`, `CrcBlockRule`, `DeflateRule`, `OutOfRangeLengthIsRefused`: both sides of each bound. -/
theorem witness_lengths :
    (32#16).toNat ≤ 32 ∧ 32 < (33#16).toNat ∧ (64#16).toNat ≤ 64 ∧ 64 < (65#16).toNat ∧ (4#16).toNat ≤ 4 ∧
      4 < (5#16).toNat ∧ (0#16).toNat ≤ 4 := by decide

theorem witness_CrcFinalRule : State.crc { Test.idle with crc := 0x51BD9F7D#32 } = 0x51BD9F7D#32 := by decide

theorem witness_CrcBlockRule : Test.idle.arg = 0x49454E44#32 := by decide

theorem witness_DeflateOverflowWritesNothing : 11 < (dfl9 [0x00#8, 0xFF#8, 0x00#8, 0xAA#8]).length := by decide +kernel

/-- `EachCommandWritesOnlyItsRegisters`: a completion that writes RES and one that writes CRC. -/
theorem witness_EachCommandWritesOnlyItsRegisters :
    (Test.nextOf (exec .bswap Test.busy)).map (fun t => decide (t.res ≠ Test.busy.res)) = some true ∧
      (Test.nextOf (exec .crcInit { Test.busy with crc := 0#32 })).map (fun t => decide (t.crc ≠ 0#32)) =
        some true ∧
      (Test.nextOf (exec (.deflate 4#16) Test.busy)).map (fun t => decide (t.olen ≠ Test.busy.olen)) = some true := by
  decide +kernel

theorem witness_BlockChecksumEqualsTheIncrementalPath : (Instr.crcBlock .ibuf 32#16).wf = true := by decide

/-- `DeflateLengthLaw`, `AdlerReductionNeverActs`, `DeflateRoundTrip`: the shortest and a longest input. -/
theorem witness_DeflateInputs : ([] : List Byte).length ≤ 4 ∧ [0xFF#8, 0x90#8, 0x8F#8, 0x00#8].length ≤ 4 := by decide

/-- `HardwareResetState`: an event that is a hardware reset, and one that is not and gives a next state. -/
theorem witness_HardwareResetState :
    (State.nextTurn { Test.busy with sched := ⟨[.hardwareReset], 0, 0⟩ }).1 = .hardwareReset ∧
      Test.busy.nextTurn.1 ≠ .hardwareReset ∧ ∃ t, step Test.busy = .next t := ⟨by decide, by decide, _, rfl⟩

theorem witness_SoftResetKeepsTheBuffers : (0x80000000#32).getLsbD 31 = true := by decide

/-- The invariant in a state with a command in flight and bytes in IBUF. -/
theorem witness_Inv_busy : Inv Test.busy where
  busy_not_done := by decide
  no_err_no_code := by decide
  err_has_code := by decide
  code_legal := by decide
  olen_legal := by decide
  cmd_decodes := ⟨.deflate 4#16, by decide⟩
  mem_canonical := by decide

/-- The invariant in a state with an error recorded. -/
theorem witness_Inv_failed : Inv Test.failed where
  busy_not_done := by decide
  no_err_no_code := by decide
  err_has_code := by decide
  code_legal := by decide
  olen_legal := by decide
  cmd_decodes := ⟨.nop, by decide⟩
  mem_canonical := by decide

theorem witness_StepKeepsTheInvariant : Inv Test.busy ∧ ∃ t, step Test.busy = .next t :=
  ⟨witness_Inv_busy, _, rfl⟩

theorem witness_StepNeverStops : Inv Test.failed := witness_Inv_failed

theorem witness_InFlightOperandsAreFrozen : Test.busy.pend = true ∧
    ∃ t, step { Test.busy with sched := ⟨[.host], 0, 0⟩ } = .next t ∧ t.pend = true := ⟨by decide, _, rfl, by decide⟩

/-- `OnlyACmdWriteStartsACommand`, `HostTurnPerformsOneAccess`: a host that writes CMD. -/
theorem witness_OnlyACmdWriteStartsACommand :
    ∃ t, step { Test.idle with prog := [.write offCmd 0x10000000#32 0b1111#4] } = .next t ∧
      Test.idle.pend = false ∧ t.pend = true := ⟨_, rfl, by decide, by decide⟩

/-- `HostTurnPerformsOneAccess`: the three kinds of host operation. -/
theorem witness_HostTurnPerformsOneAccess :
    hostNext { Test.idle with prog := [.read 0x018#12] } (.read 0x018#12) ∧
      hostNext { Test.idle with prog := [.write 0x014#12 1#32 0b1111#4] } (.write 0x014#12 1#32 0b1111#4) ∧
      hostNext { Test.busy with prog := [.bitSet 0x00C#12 0 0], sched := ⟨[.host], 0, 0⟩ } (.bitSet 0x00C#12 0 0) := by
  unfold hostNext; decide

/-- `ErrAndFirstCodeStayUntilCleared`: a step that keeps ERR, and the three that end it. -/
theorem witness_ErrAndFirstCodeStayUntilCleared :
    Test.failed.err = true ∧
      [Test.failed, { Test.failed with sched := ⟨[.hardwareReset], 0, 0⟩ },
        { Test.failed with prog := [.write 0x00C#12 4#32 0b1111#4] },
        { Test.failed with prog := [.write 0x008#12 0x80000000#32 0b1111#4] }].map
          (fun s => (Test.nextOf (step s)).map State.err) = [some true, some false, some false, some false] := by decide

theorem witness_IdleEngineKeepsItsState :
    Test.idle.pend = false ∧ Test.idle.nextTurn.1 ≠ .hardwareReset ∧ Test.idle.prog[Test.idle.hpc]? = none := by decide

theorem witness_PendingCommandEnds :
    Inv { Test.busy with sched := ⟨[.host, .host, .engine], 3, 1⟩ } ∧ Test.busy.pend = true :=
  ⟨{ witness_Inv_busy with }, by decide⟩

/-- `IssueRunsItsCommandAtEveryLatency`, with two polls before the completion. -/
theorem witness_IssueRunsItsCommandAtEveryLatency :
    ∃ s : State, s.pend = false ∧ (Instr.deflate 4#16).wf = true ∧
      s.sched.listed = .host :: (List.replicate 2 .host ++ .engine :: .host :: []) ∧
      ∀ j, (h : j < 2) → s.prog[s.hpc + j]? = ((HostLine.issue (.deflate 4#16)).expand s.hpc)[j]? :=
  ⟨{ Test.idle with
      prog := (HostLine.issue (.deflate 4#16)).expand 0
      sched := ⟨[.host, .host, .host, .engine, .host], 0, 0⟩ }, by decide, by decide, by decide, by decide⟩
end

section
/-! PROOFS. The two host accesses by what lives at the offset (20_memory.md R63, R64), and the STATUS and CTRL words and
writes field by field (10_state.md R24, R25). -/

namespace Sys2Proof.Machine

/-! The address map. -/

@[simp] theorem place_offCtrl : place offCtrl.toNat = .reg .ctrl := place_ctrl
@[simp] theorem place_offStatus : place offStatus.toNat = .reg .status := place_status
@[simp] theorem place_offCmd : place offCmd.toNat = .reg .cmd := place_cmd
@[simp] theorem place_offArg : place offArg.toNat = .reg .arg := place_arg
@[simp] theorem place_offCrc : place offCrc.toNat = .reg .crc := place_crc

theorem place_of_ibuf_window {off : Nat} (lo : 0x100 ≤ off) (hi : off < 0x120) : place off = .ibuf := by
  rw [place_above (by omega), if_pos ⟨lo, hi⟩]

theorem place_reg_aligned {off : Nat} {r : Reg} (h : place off = .reg r) : off % 4 = 0 :=
  (by decide : ∀ q ∈ regMap, q.1 % 4 = 0) _ (place_reg h)

theorem eq_offStatus_of_place {off : Offset} (h : place off.toNat = .reg .status) : off = offStatus :=
  BitVec.eq_of_toNat_eq
    ((by decide : ∀ q ∈ regMap, q.2 = .status → q.1 = offStatus.toNat) _ (place_reg h) rfl)

/-! Reads. -/

theorem memRead_reg (s : State) {off : Offset} {r : Reg} (h : place off.toNat = .reg r) :
    memRead s off = (s.readReg r, .okay) := by
  simp [memRead, place_reg_aligned h, h]

/-- What a read returns at an offset, the same choice in every state: BUSERR, a register, or a buffer word. -/
theorem memRead_cases (off : Offset) :
    (∀ s, memRead s off = (0#32, .buserr)) ∨
      (∃ r, place off.toNat = .reg r ∧ ∀ s, memRead s off = (s.readReg r, .okay)) ∨
      (∀ s, memRead s off = (s.readWord off.toNat, .okay)) := by
  by_cases ha : off.toNat % 4 = 0
  · cases hp : place off.toNat with
    | reg r => exact .inr (.inl ⟨r, rfl, fun s => memRead_reg s hp⟩)
    | ibuf => exact .inr (.inr fun s => by simp [memRead, ha, hp])
    | obuf => exact .inr (.inr fun s => by simp [memRead, ha, hp])
    | reserved => exact .inl fun s => by simp [memRead, hp]
  · exact .inl fun s => by simp [memRead, ha]

/-- The response of a read depends on its offset alone. -/
theorem memRead_resp_eq (s t : State) (off : Offset) : (memRead s off).2 = (memRead t off).2 := by
  rcases memRead_cases off with h | ⟨r, -, h⟩ | h <;> rw [h s, h t]

/-- Only STATUS shows PEND. -/
theorem State.readReg_setPend (s : State) (b : Bool) {r : Reg} (h : r ≠ .status) :
    State.readReg { s with pend := b } r = s.readReg r := by
  cases r with
  | status => exact absurd rfl h
  | _ => rfl

theorem memRead_setPend (s : State) (b : Bool) {off : Offset} (h : off ≠ offStatus) :
    memRead { s with pend := b } off = memRead s off := by
  rcases memRead_cases off with hr | ⟨r, hp, hr⟩ | hr
  · rw [hr, hr]
  · have hne : r ≠ .status := by
      rintro rfl
      exact h (eq_offStatus_of_place hp)
    rw [hr, hr, State.readReg_setPend s b hne]
  · rw [hr, hr]
    rfl

/-! Writes. -/

/-- A full-strobe write to a writable register that PEND does not guard at the moment has the register's effect. -/
theorem memWrite_reg (s : State) (v : Word) {off : Offset} {r : Reg} (h : place off.toNat = .reg r)
    (hw : r.writable = true) (hg : (r.busyGuarded && s.pend) = false) :
    memWrite s off v 0b1111#4 = (s.writeReg v r, .okay) := by
  simp [memWrite, place_reg_aligned h, h, hw, hg]

theorem memWrite_guarded_of_busy (s : State) (v : Word) {off : Offset} {r : Reg} (h : place off.toNat = .reg r)
    (hw : r.writable = true) (hg : r.busyGuarded = true) (hp : s.pend = true) :
    memWrite s off v 0b1111#4 = (s.raiseErr .busy, .okay) := by
  simp [memWrite, place_reg_aligned h, h, hw, hg, hp]

theorem memWrite_ibuf_of_busy (s : State) (v : Word) (strb : BitVec 4) {off : Offset} (ha : off.toNat % 4 = 0)
    (h : place off.toNat = .ibuf) (hp : s.pend = true) : memWrite s off v strb = (s.raiseErr .busy, .okay) := by
  simp [memWrite, ha, h, hp]

theorem memWrite_ctrl (s : State) (v : Word) : memWrite s offCtrl v 0b1111#4 = (s.writeCtrl v, .okay) :=
  memWrite_reg s v place_offCtrl rfl rfl

theorem memWrite_status (s : State) (v : Word) : memWrite s offStatus v 0b1111#4 = (s.writeStatus v, .okay) :=
  memWrite_reg s v place_offStatus rfl rfl

/-! CTRL. -/

theorem State.ctrlWord_getLsbD (s : State) (n : Nat) :
    s.ctrlWord.getLsbD n = if n = 0 then s.ieDone else if n = 1 then s.ieErr else false := by
  rw [State.ctrlWord, BitVec.getLsbD_append, BitVec.getLsbD_append]
  match n with
  | 0 => simp
  | 1 => simp
  | n + 2 => simp

theorem State.writeCtrl_of_srst (s : State) {v : Word} (h : v.getLsbD 31 = true) : s.writeCtrl v = s.softReset :=
  if_pos h

theorem State.writeCtrl_of_not_srst (s : State) {v : Word} (h : v.getLsbD 31 = false) :
    s.writeCtrl v = s.setEnables v :=
  if_neg (ne_true_of_eq_false h)

/-! STATUS. -/

theorem State.statusWord_getLsbD (s : State) (n : Nat) :
    s.statusWord.getLsbD n =
      if n = 0 then s.pend else if n = 1 then s.done else if n = 2 then s.err else if n = 3 then false
      else s.ecode.getLsbD (n - 4) := by
  rw [State.statusWord, BitVec.getLsbD_append, BitVec.getLsbD_append, BitVec.getLsbD_append, BitVec.getLsbD_append,
    BitVec.getLsbD_append]
  match n with
  | 0 => simp
  | 1 => simp
  | 2 => simp
  | 3 => simp
  | n + 4 => simpa using BitVec.lt_of_getLsbD

theorem State.statusWord_busy (s : State) : s.statusWord.getLsbD 0 = s.pend := s.statusWord_getLsbD 0

theorem State.statusWord_ecode (s : State) : s.statusWord.extractLsb' 4 4 = s.ecode := by
  refine BitVec.eq_of_getLsbD_eq fun i hi => ?_
  have hbit : s.statusWord.getLsbD (4 + i) = s.ecode.getLsbD i := by
    rw [State.statusWord_getLsbD, if_neg (by omega), if_neg (by omega), if_neg (by omega), if_neg (by omega),
      Nat.add_sub_cancel_left]
  rw [BitVec.getLsbD_extractLsb', hbit]
  simp [hi]

theorem State.statusWord_getLsbD_high (s : State) {n : Nat} (h : 8 ≤ n) : s.statusWord.getLsbD n = false := by
  rw [State.statusWord_getLsbD, if_neg (by omega), if_neg (by omega), if_neg (by omega), if_neg (by omega)]
  exact BitVec.getLsbD_of_ge _ _ (by omega)

/-- The STATUS write as one update of DONE, ERR and ECODE. -/
theorem State.writeStatus_eq (s : State) (v : Word) :
    s.writeStatus v =
      { s with
        done := s.done && !v.getLsbD 1
        err := s.err && !v.getLsbD 2
        ecode := if v.getLsbD 2 then 0#4 else s.ecode } := by
  unfold State.writeStatus
  cases v.getLsbD 1 <;> cases v.getLsbD 2 <;> simp [State.clearDone, State.clearErr]

end Sys2Proof.Machine
end

section
/-! PROOFS. The size of the deflate kernel's output (42_deflate.md R166) and, from it, what each command's completion
writes (60_exceptions.md R194). -/

namespace Sys2Proof.Machine

/-! The kernel's output. -/

@[simp] theorem putField_length (v k : Nat) : (putField v k).length = k := by simp [putField]

@[simp] theorem putCode_length (c k : Nat) : (putCode c k).length = k := by simp [putCode]

@[simp] theorem be32_length (v : Word) : (be32 v).length = 4 := rfl

theorem putLiteral_length (x : Byte) : 8 ≤ (putLiteral x).length ∧ (putLiteral x).length ≤ 9 := by
  unfold putLiteral
  split <;> simp

theorem literals_length (input : List Byte) :
    8 * input.length ≤ (input.flatMap putLiteral).length ∧
      (input.flatMap putLiteral).length ≤ 9 * input.length := by
  induction input with
  | nil => simp
  | cons x xs ih =>
    have hx := putLiteral_length x
    simp only [List.flatMap_cons, List.length_append, List.length_cons]
    omega

theorem blockBits_length (input : List Byte) :
    (blockBits input).length = (input.flatMap putLiteral).length + 10 := by
  simp only [blockBits, List.length_append, putField_length, putCode_length]
  omega

theorem padBits_length (bits : List Bool) : (padBits bits).length = (bits.length + 7) / 8 * 8 := by
  simp only [padBits, List.length_append, List.length_replicate]
  omega

theorem packBytes_length : ∀ bits : List Bool, (packBytes bits).length = bits.length / 8
  | _ :: _ :: _ :: _ :: _ :: _ :: _ :: _ :: rest => by
    simp only [packBytes, List.length_cons, packBytes_length rest]
    omega
  | [] | [_] | [_, _] | [_, _, _] | [_, _, _, _] | [_, _, _, _, _] | [_, _, _, _, _, _] | [_, _, _, _, _, _, _] => by
    simp [packBytes]

/-- The ten bits of header and end-of-block code round up to two bytes, with a spare bit for each literal of 9 bits. -/
theorem deflateData_length {input : List Byte} (h : input.length ≤ 4) :
    (deflateData input).length = input.length + 2 := by
  have hl := literals_length input
  rw [deflateData, packBytes_length, padBits_length, blockBits_length]
  omega

theorem dfl9_length {input : List Byte} (h : input.length ≤ 4) : (dfl9 input).length = input.length + 8 := by
  simp only [dfl9, List.length_append, List.length_cons, List.length_nil, deflateData_length h, be32_length]
  omega

@[simp] theorem State.bufBytes_length (s : State) (src : Buf) (n : Nat) : (s.bufBytes src n).length = n := by
  simp [State.bufBytes]

/-! Completions. -/

/-- DEFLATE's completion with an output that fits. -/
theorem State.deflateInto_of_fits (s : State) {capacity : Nat} {out : List Byte} (h : out.length ≤ capacity) :
    s.deflateInto capacity out =
      State.completeOk { s.storeBytes (bufBase .obuf) out with olen := BitVec.ofNat 32 out.length } :=
  if_neg (Nat.not_lt.2 h)

/-- What each command writes, besides DONE and PEND, when its completion answers a next state: nothing, RES, CRC, or OLEN
with bytes that fit OBUF. -/
theorem exec_next_writes {i : Instr} {s t : State} (h : exec i s = .next t) :
    t = s.completeOk ∨
      ((i = .bswap ∨ i = .crcFinal ∨ ∃ src len, i = .crcBlock src len) ∧
        ∃ r, t = State.completeOk { s with res := r }) ∨
      ((i = .crcInit ∨ (∃ b, i = .crcByte b) ∨ i = .crcWord ∨ ∃ src len, i = .crcBuf src len) ∧
        ∃ c, t = State.completeOk { s with crc := c }) ∨
      ((∃ len, i = .deflate len) ∧ ∃ out : List Byte, out.length ≤ Config.obufBytes ∧
        t = State.completeOk { s with
          mem := (s.storeBytes (bufBase .obuf) out).mem
          olen := BitVec.ofNat 32 out.length }) := by
  cases i with
  | nop => cases h; exact .inl rfl
  | bswap => cases h; exact .inr (.inl ⟨.inl rfl, _, rfl⟩)
  | crcFinal => cases h; exact .inr (.inl ⟨.inr (.inl rfl), _, rfl⟩)
  | crcBlock src len =>
    simp only [exec, execCrcBlock] at h
    split at h
    · cases h; exact .inr (.inl ⟨.inr (.inr ⟨src, len, rfl⟩), _, rfl⟩)
    · cases h
  | crcInit => cases h; exact .inr (.inr (.inl ⟨.inl rfl, _, rfl⟩))
  | crcByte b => cases h; exact .inr (.inr (.inl ⟨.inr (.inl ⟨b, rfl⟩), _, rfl⟩))
  | crcWord => cases h; exact .inr (.inr (.inl ⟨.inr (.inr (.inl rfl)), _, rfl⟩))
  | crcBuf src len =>
    simp only [exec, execCrcBuf] at h
    split at h
    · cases h; exact .inr (.inr (.inl ⟨.inr (.inr (.inr ⟨src, len, rfl⟩)), _, rfl⟩))
    · cases h
  | deflate len =>
    simp only [exec, execDeflate] at h
    split at h
    · rename_i hl
      have hlen : lenOperand len ≤ 4 := of_decide_eq_true hl
      have hfit : (dfl9 (s.bufBytes .ibuf (lenOperand len))).length ≤ Config.obufBytes := by
        rw [dfl9_length (by simpa using hlen), State.bufBytes_length, Config.obufBytes]
        omega
      rw [State.deflateInto_of_fits s hfit, State.storeBytes_frame] at h
      cases h
      exact .inr (.inr (.inr ⟨⟨len, rfl⟩, _, hfit, rfl⟩))
    · cases h

theorem exec_next_pend {i : Instr} {s t : State} (h : exec i s = .next t) : t.pend = false := by
  rcases exec_next_writes h with rfl | ⟨-, r, rfl⟩ | ⟨-, c, rfl⟩ | ⟨-, out, -, rfl⟩ <;> rfl

end Sys2Proof.Machine
end

section
/-! PROOFS. A command in flight is frozen: while PEND stays 1, no event changes CMD, an operand, a result or a buffer byte
(10_state.md R36, R37). -/

namespace Sys2Proof.Machine

/-- CMD, the operands, the results and everything a buffer byte is read from are the same in both states. -/
structure SameInFlight (s t : State) : Prop where
  cmd : t.cmd = s.cmd
  arg : t.arg = s.arg
  res : t.res = s.res
  crc : t.crc = s.crc
  olen : t.olen = s.olen
  mem : t.mem = s.mem
  draws : t.draws = s.draws

theorem SameInFlight.readByte {s t : State} (h : SameInFlight s t) (a : Nat) : t.readByte a = s.readByte a :=
  State.readByte_congr h.mem h.draws a

/-- A host write while PEND = 1 changes none of them, unless it is the soft reset, which ends PEND. -/
theorem memWrite_sameInFlight {s : State} {off : Offset} {v : Word} {strb : BitVec 4} (hs : s.pend = true)
    (ht : (memWrite s off v strb).1.pend = true) : SameInFlight s (memWrite s off v strb).1 := by
  rcases memWrite_cases s off v strb with h | ⟨-, h⟩ | ⟨r, -, hw, -, hg, h⟩ | ⟨-, -, hp, -⟩
  · rw [h]; constructor <;> rfl
  · rw [h]; constructor <;> rfl
  · rw [h] at ht ⊢
    cases r with
    | ctrl =>
      cases hv : v.getLsbD 31 with
      | true => simp [State.writeReg, State.writeCtrl_of_srst s hv] at ht
      | false =>
        rw [State.writeReg, State.writeCtrl_of_not_srst s hv]
        constructor <;> rfl
    | status =>
      rw [State.writeReg, State.writeStatus_eq]
      constructor <;> rfl
    | cmd | arg | crc => simp [Reg.busyGuarded, hs] at hg
    | id | caps | res | olen => simp [Reg.writable] at hw
  · simp [hs] at hp

/-- A host turn is one host write, or moves nothing but the host's place and the reply. -/
theorem State.hostTurn_cases (s : State) :
    (∃ p r, s.hostTurn = { s with hpc := p, reply := r }) ∨
      (∃ off v strb p r, s.prog[s.hpc]? = some (.write off v strb) ∧
        s.hostTurn = { (memWrite s off v strb).1 with hpc := p, reply := r }) := by
  unfold State.hostTurn
  cases s.prog[s.hpc]? with
  | none => exact .inl ⟨s.hpc, s.reply, rfl⟩
  | some op =>
    cases op with
    | read off => exact .inl ⟨_, _, rfl⟩
    | write off v strb => exact .inr ⟨off, v, strb, _, _, rfl, rfl⟩
    | bitSet off n target => exact .inl ⟨_, _, rfl⟩

theorem step_sameInFlight {s t : State} (hs : s.pend = true) (h : step s = .next t) (ht : t.pend = true) :
    SameInFlight s t := by
  rcases step_next_cases h with ⟨-, rfl⟩ | ⟨-, rfl⟩ | ⟨-, hp, -⟩ | ⟨-, -, i, -, he⟩
  · rcases State.hostTurn_cases { s with sched := s.nextTurn.2 } with ⟨p, r, hh⟩ | ⟨off, v, strb, p, r, -, hh⟩
    · rw [hh]; constructor <;> rfl
    · rw [hh] at ht ⊢
      exact { memWrite_sameInFlight (s := { s with sched := s.nextTurn.2 }) hs ht with }
  · simp at ht
  · simp [hs] at hp
  · simp [exec_next_pend he] at ht

end Sys2Proof.Machine
end

section
/-! PROOFS. The statements of 10_state.md. -/

namespace Sys2Proof.Proofs

open Sys2Proof.Machine

/-- Settles O10: both registers are read at their place in the map, whatever the state. -/
theorem idAndCapsAreConstants : Obligations.IdAndCapsAreConstants := by
  intro s
  have hid : memRead s 0x000#12 = (Config.idValue, .okay) := memRead_reg s (off := 0x000#12) place_id
  have hcaps : memRead s 0x004#12 = (Config.capsValue, .okay) := memRead_reg s (off := 0x004#12) place_caps
  exact ⟨hid, by decide, hcaps, by decide, by decide, by decide, by decide⟩

/-- Settles O11: the bits of `ctrlWord`, and the write split on bit 31. -/
theorem ctrlRegister : Obligations.CtrlRegister := by
  refine ⟨by decide, fun s => ⟨s.ctrlWord_getLsbD 0, s.ctrlWord_getLsbD 1, fun n hn => ?_⟩,
    fun s v hv => ⟨?_, rfl, rfl⟩, fun s v hv => ?_, fun s hie hdone => ?_, fun s hie herr => ?_⟩
  · rw [State.ctrlWord_getLsbD, if_neg (by omega), if_neg (by omega)]
  · rw [memWrite_ctrl, State.writeCtrl_of_srst s hv]
  · rw [memWrite_ctrl, State.writeCtrl_of_not_srst s hv, State.setEnables]
  · simp [State.irq, hie, hdone]
  · simp [State.irq, hie, herr]

/-- Settles O12: the fields of `statusWord`, and the write as one update. -/
theorem statusRegister : Obligations.StatusRegister := by
  refine ⟨by decide, fun s => ?_, fun s v => ?_⟩
  · exact ⟨s.statusWord_busy, s.statusWord_getLsbD 1, s.statusWord_getLsbD 2, s.statusWord_getLsbD 3,
      s.statusWord_ecode, fun n => s.statusWord_getLsbD_high⟩
  · rw [memWrite_status, State.writeStatus_eq]

/-- Settles O13: of what a host write can do, only three outcomes are left at STATUS, and none of them touches PEND. -/
theorem busyEqualsPend : Obligations.BusyEqualsPend := by
  refine fun s v strb => ⟨s.statusWord_busy, ?_⟩
  rcases memWrite_cases s offStatus v strb with h | ⟨-, h⟩ | ⟨r, hr, -, -, -, h⟩ | ⟨hi, -, -, -⟩
  · rw [h]
  · rw [h, State.raiseErr_pend]
  · obtain rfl : Reg.status = r := by simpa using hr
    rw [h, State.writeReg, State.writeStatus_eq]
  · simp at hi

/-- Settles O14: the guarded writes fall to BUSY, reads do not see PEND outside STATUS, and a step that leaves PEND = 1
keeps what is in flight. -/
theorem writesWhileBusyAreRejected : Obligations.WritesWhileBusyAreRejected := by
  intro s hs
  refine ⟨fun v off hoff => ?_, fun off v strb ha lo hi => ?_, ⟨rfl, rfl, rfl, fun a => ?_, fun he => ?_⟩,
    fun v => ⟨memWrite_ctrl s v, memWrite_status s v⟩, fun off => memRead_resp_eq _ _ off,
    fun off hoff => (memRead_setPend s false hoff).symm, fun t h ht => ?_⟩
  · simp only [List.mem_cons, List.not_mem_nil, or_false] at hoff
    obtain rfl | rfl | rfl := hoff
    · exact memWrite_guarded_of_busy s v place_offCmd rfl rfl hs
    · exact memWrite_guarded_of_busy s v place_offArg rfl rfl hs
    · exact memWrite_guarded_of_busy s v place_offCrc rfl rfl hs
  · exact memWrite_ibuf_of_busy s v strb ha (place_of_ibuf_window lo hi) hs
  · exact State.readByte_congr rfl rfl a
  · simp [he, ErrCode.code]
  · have hk := step_sameInFlight hs h ht
    exact ⟨hk.res, hk.crc, hk.olen, fun i _ => hk.readByte _⟩

/-- Settles O34: each of the four things a completion can write stays within its registers, and DEFLATE's output fits
OBUF. -/
theorem eachCommandWritesOnlyItsRegisters : Obligations.EachCommandWritesOnlyItsRegisters := by
  intro i s t h
  rcases exec_next_writes h with rfl | ⟨hi, r, rfl⟩ | ⟨hi, c, rfl⟩ | ⟨hi, out, hfit, rfl⟩
  · have hb : ∀ a, s.completeOk.readByte a = s.readByte a := State.readByte_congr rfl rfl
    simp [hb]
  · have hb : ∀ a, (State.completeOk { s with res := r }).readByte a = s.readByte a := State.readByte_congr rfl rfl
    simp [hb, hi]
  · have hb : ∀ a, (State.completeOk { s with crc := c }).readByte a = s.readByte a := State.readByte_congr rfl rfl
    simp [hb, hi]
  · have hb : ∀ a, a < 0x200 ∨ 0x240 ≤ a → (State.completeOk { s with
        mem := (s.storeBytes (bufBase .obuf) out).mem
        olen := BitVec.ofNat 32 out.length }).readByte a = s.readByte a := by
      intro a ha
      have hout : a < bufBase .obuf ∨ bufBase .obuf + out.length ≤ a := by
        simp only [bufBase, Config.obufBytes] at hfit ⊢
        omega
      rw [← s.readByte_storeBytes_outside out hout, State.storeBytes_frame]
      exact State.readByte_congr rfl rfl a
    simpa [hi] using hb

end Sys2Proof.Proofs
end

section
/-! PROOFS. Buffer words byte by byte (20_memory.md R61, R62, R68), and the host accesses that no earlier lemma speaks of:
a read of a buffer window, the IBUF write of an idle engine, and the accesses that answer BUSERR (R63, R64). -/

namespace Sys2Proof.Machine

/-! The address map. -/

theorem place_of_obuf_window {off : Nat} (lo : 0x200 ≤ off) (hi : off < 0x240) : place off = .obuf := by
  rw [place_above (by omega), if_neg (by omega), if_pos ⟨lo, hi⟩]

theorem place_of_reserved_window {off : Nat}
    (h : 0x024 ≤ off ∧ off < 0x100 ∨ 0x120 ≤ off ∧ off < 0x200 ∨ 0x240 ≤ off) : place off = .reserved := by
  rw [place_above (by omega), if_neg (by omega), if_neg (by omega)]

theorem place_obuf_or_reserved {off : Nat} (lo : 0x024 ≤ off) (h : ¬ (0x100 ≤ off ∧ off < 0x120)) :
    place off = .obuf ∨ place off = .reserved := by
  rw [place_above (by omega), if_neg h]
  split
  · exact .inl rfl
  · exact .inr rfl

/-! Buffer words. -/

/-- Little-endian lanes, bit by bit: in each lane the byte boundaries say which of the four bytes the bit is in. -/
theorem State.lane_readWord (s : State) (a : Nat) {k : Nat} (h : k < 4) :
    lane (s.readWord a) k = s.readByte (a + k) := by
  refine BitVec.eq_of_getLsbD_eq fun i hi => ?_
  simp only [lane, State.readWord, BitVec.getLsbD_extractLsb', BitVec.getLsbD_append]
  interval_cases k <;> grind

/-- A byte of the written word takes its lane where its strobe is set. -/
theorem State.readByte_writeLanes_inside (s : State) (a : Nat) (v : Word) (strb : BitVec 4) {k : Nat} (h : k < 4) :
    (s.writeLanes a v strb).readByte (a + k) = if strb.getLsbD k = true then lane v k else s.readByte (a + k) := by
  simp only [State.writeLanes, State.readByte_writeLane, Nat.add_left_cancel_iff]
  interval_cases k <;> simp

theorem State.readByte_writeLanes_outside (s : State) {a b : Nat} (v : Word) (strb : BitVec 4)
    (h : b < a ∨ a + 4 ≤ b) : (s.writeLanes a v strb).readByte b = s.readByte b := by
  have hne : ∀ k < 4, b ≠ a + k := by omega
  simp [State.writeLanes, State.readByte_writeLane, hne, show b ≠ a from hne 0 (by decide)]

/-- Every byte after the IBUF write. -/
theorem State.readByte_writeLanes (s : State) (a : Nat) (v : Word) (strb : BitVec 4) (b : Nat) :
    (s.writeLanes a v strb).readByte b =
      if a ≤ b ∧ b < a + 4 ∧ strb.getLsbD (b - a) = true then lane v (b - a) else s.readByte b := by
  by_cases hb : a ≤ b ∧ b < a + 4
  · obtain ⟨k, rfl⟩ := Nat.exists_eq_add_of_le hb.1
    have hk : k < 4 := by omega
    simp [State.readByte_writeLanes_inside s a v strb hk, hk]
  · rw [State.readByte_writeLanes_outside s v strb (by omega), if_neg (by tauto)]

/-- A strobed write followed by a word read of the same word. -/
theorem State.lane_readWord_writeLanes (s : State) (a : Nat) (v : Word) (strb : BitVec 4) {k : Nat} (h : k < 4) :
    lane ((s.writeLanes a v strb).readWord a) k =
      if strb.getLsbD k = true then lane v k else lane (s.readWord a) k := by
  rw [State.lane_readWord _ _ h, State.lane_readWord _ _ h, State.readByte_writeLanes_inside _ _ _ _ h]

/-! Reads. -/

theorem memRead_misaligned (s : State) {off : Offset} (h : off.toNat % 4 ≠ 0) : memRead s off = (0#32, .buserr) :=
  if_pos h

theorem memRead_buffer (s : State) {off : Offset} (ha : off.toNat % 4 = 0)
    (h : 0x100 ≤ off.toNat ∧ off.toNat < 0x120 ∨ 0x200 ≤ off.toNat ∧ off.toNat < 0x240) :
    memRead s off = (s.readWord off.toNat, .okay) := by
  rcases h with h | h
  · simp [memRead, ha, place_of_ibuf_window h.1 h.2]
  · simp [memRead, ha, place_of_obuf_window h.1 h.2]

theorem memRead_reserved (s : State) {off : Offset} (h : place off.toNat = .reserved) :
    memRead s off = (0#32, .buserr) := by
  simp [memRead, h]

/-! Writes. -/

theorem memWrite_misaligned (s : State) {off : Offset} (v : Word) (strb : BitVec 4) (h : off.toNat % 4 ≠ 0) :
    memWrite s off v strb = (s, .buserr) :=
  if_pos h

/-- A read-only register, or a register written without all strobes. -/
theorem memWrite_reg_rejected (s : State) (v : Word) {strb : BitVec 4} {off : Offset} {r : Reg}
    (h : place off.toNat = .reg r) (hr : r.writable = false ∨ strb ≠ 0b1111#4) :
    memWrite s off v strb = (s, .buserr) := by
  simp [memWrite, h, hr]

theorem memWrite_obuf_or_reserved (s : State) {off : Offset} (v : Word) (strb : BitVec 4)
    (h : place off.toNat = .obuf ∨ place off.toNat = .reserved) : memWrite s off v strb = (s, .buserr) := by
  rcases h with h | h <;> simp [memWrite, h]

theorem memWrite_ibuf_of_idle (s : State) {off : Offset} (v : Word) (strb : BitVec 4) (hs : s.pend = false)
    (ha : off.toNat % 4 = 0) (lo : 0x100 ≤ off.toNat) (hi : off.toNat < 0x120) :
    memWrite s off v strb = (s.writeLanes off.toNat v strb, .okay) := by
  simp [memWrite, ha, place_of_ibuf_window lo hi, hs]

theorem memWrite_state_of_buserr {s : State} {off : Offset} {v : Word} {strb : BitVec 4}
    (h : (memWrite s off v strb).2 = .buserr) : (memWrite s off v strb).1 = s := by
  rcases memWrite_cases s off v strb with hw | ⟨-, hw⟩ | ⟨_, -, -, -, -, hw⟩ | ⟨-, -, -, hw⟩
  · rw [hw]
  all_goals simp [hw] at h

end Sys2Proof.Machine
end

section
/-! PROOFS. The statements of 20_memory.md. -/

namespace Sys2Proof.Proofs

open Sys2Proof.Machine

/-- Settles O7: each clause is what lives at its offsets. -/
theorem readWindow : Obligations.ReadWindow := by
  refine ⟨fun s off => memRead_misaligned s, fun s => ?_, fun s off => memRead_buffer s, fun s off _ h => ?_,
    fun s off => rfl⟩
  · exact ⟨memRead_reg s (off := 0x000#12) place_id, memRead_reg s (off := 0x004#12) place_caps,
      memRead_reg s (off := 0x008#12) place_ctrl, memRead_reg s (off := 0x00C#12) place_status,
      memRead_reg s (off := 0x010#12) place_cmd, memRead_reg s (off := 0x014#12) place_arg,
      memRead_reg s (off := 0x018#12) place_res, memRead_reg s (off := 0x01C#12) place_crc,
      memRead_reg s (off := 0x020#12) place_olen⟩
  · exact memRead_reserved s (place_of_reserved_window h)

/-- Settles O8: each clause is what lives at its offsets, with its strobes and PEND; the IBUF write is read back byte by
byte. -/
theorem writeWindow : Obligations.WriteWindow := by
  refine ⟨fun s off => memWrite_misaligned s, fun s v strb hstrb off hoff => ?_, fun s v hs off hoff => ?_,
    fun s v => ⟨memWrite_ctrl s v, memWrite_status s v⟩, fun s v hs => ⟨?_, ?_, ?_⟩,
    fun s off v strb ha lo hi => ⟨fun hs => ?_, fun hs => ⟨(s.writeLanes off.toNat v strb).mem, ?_, fun a => ?_⟩⟩,
    fun s v strb off hoff => ?_, fun s off v strb hlo hib => ?_, fun s off v strb => memWrite_state_of_buserr⟩
  · simp only [List.mem_cons, List.not_mem_nil, or_false] at hoff
    obtain rfl | rfl | rfl | rfl | rfl := hoff
    · exact memWrite_reg_rejected s v place_offCtrl (.inr hstrb)
    · exact memWrite_reg_rejected s v place_offStatus (.inr hstrb)
    · exact memWrite_reg_rejected s v place_offCmd (.inr hstrb)
    · exact memWrite_reg_rejected s v place_offArg (.inr hstrb)
    · exact memWrite_reg_rejected s v place_offCrc (.inr hstrb)
  · obtain ⟨hguarded, -⟩ := writesWhileBusyAreRejected s hs
    exact hguarded v off hoff
  · exact memWrite_reg s v place_offCmd rfl (by simp [hs])
  · exact memWrite_reg s v place_offArg rfl (by simp [hs])
  · exact memWrite_reg s v place_offCrc rfl (by simp [hs])
  · exact memWrite_ibuf_of_busy s v strb ha (place_of_ibuf_window lo hi) hs
  · rw [memWrite_ibuf_of_idle s v strb hs ha lo hi, ← State.writeLanes_frame]
  · rw [← State.writeLanes_frame]
    exact s.readByte_writeLanes off.toNat v strb a
  · simp only [List.mem_cons, List.not_mem_nil, or_false] at hoff
    obtain rfl | rfl | rfl | rfl := hoff
    · exact memWrite_reg_rejected s v (off := 0x000#12) place_id (.inl rfl)
    · exact memWrite_reg_rejected s v (off := 0x004#12) place_caps (.inl rfl)
    · exact memWrite_reg_rejected s v (off := offRes) place_res (.inl rfl)
    · exact memWrite_reg_rejected s v (off := offOlen) place_olen (.inl rfl)
  · exact memWrite_obuf_or_reserved s v strb (place_obuf_or_reserved hlo hib)

/-- Settles O9: both reads are buffer words, and the write sets the strobed lanes of the second. -/
theorem strobedWriteThenWordRead : Obligations.StrobedWriteThenWordRead := by
  intro s off v strb k hs ha lo hi hk
  rw [memWrite_ibuf_of_idle s v strb hs ha lo hi, memRead_buffer _ ha (.inl ⟨lo, hi⟩),
    memRead_buffer s ha (.inl ⟨lo, hi⟩)]
  exact s.lane_readWord_writeLanes off.toNat v strb hk

/-- Settles O48: a step that leaves PEND = 1 keeps what is in flight. -/
theorem inFlightOperandsAreFrozen : Obligations.InFlightOperandsAreFrozen := by
  intro s t hs h ht
  have hk := step_sameInFlight hs h ht
  exact ⟨hk.cmd, hk.arg, hk.crc, hk.res, hk.olen, hk.readByte⟩

end Sys2Proof.Proofs
end

section
/-! PROOFS. The decoder and the encoder read against the opcode map (30_encoding.md R91, R93, R94): which words match a
row, what each function answers on a row's words, and so when a word decodes. -/

namespace Sys2Proof

open Sys2Proof.Safety

/-! Fields of a word. -/

theorem opField_toNat (w : Word) : (opField w).toNat = opOf w := by
  have hw := w.isLt
  rw [opField, BitVec.extractLsb'_toNat, Nat.shiftRight_eq_div_pow, opOf]
  omega

theorem immField_eq_setWidth (w : Word) : immField w = w.setWidth 8 :=
  (BitVec.setWidth_eq_extractLsb' (by decide)).symm

theorem lenField_eq_setWidth (w : Word) : lenField w = w.setWidth 16 :=
  (BitVec.setWidth_eq_extractLsb' (by decide)).symm

theorem toNat_and_opMask (w : Word) : (w &&& 0xF0000000#32).toNat = opOf w * 2 ^ 28 := by
  have hshift : w >>> 28 <<< 28 = w &&& 0xF0000000#32 := BitVec.shiftLeft_ushiftRight (n := 28)
  have hw := w.isLt
  rw [← hshift, BitVec.toNat_shiftLeft, BitVec.toNat_ushiftRight, Nat.shiftLeft_eq, Nat.shiftRight_eq_div_pow, opOf]
  omega

theorem and_opMask_eq_iff (w p : Word) : w &&& 0xF0000000#32 = p &&& 0xF0000000#32 ↔ opOf w = opOf p := by
  rw [← BitVec.toNat_inj, toNat_and_opMask, toNat_and_opMask]
  omega

/-- A match under a mask in two parts, for a pattern that lies in the first. -/
theorem and_or_eq_iff {w p a b : Word} (ha : p &&& a = p) (hb : p &&& b = 0#32) :
    w &&& (a ||| b) = p ↔ w &&& a = p ∧ w &&& b = 0#32 := by
  have absorb_left : (a ||| b) &&& a = a := by ext; simpa using Or.inl
  have absorb_right : (a ||| b) &&& b = b := by ext; simpa using Or.inr
  constructor
  · rintro rfl
    rw [BitVec.and_assoc, absorb_left] at ha
    rw [BitVec.and_assoc, absorb_right] at hb
    exact ⟨ha, hb⟩
  · rintro ⟨hwa, hwb⟩
    rw [BitVec.and_or_distrib_left, hwa, hwb, BitVec.or_zero]

/-- The low `k` bits of a word, back in their places. -/
theorem setWidth_setWidth_eq_and (w : Word) {k : Nat} (hk : k ≤ 32) :
    (w.setWidth k).setWidth 32 = w &&& BitVec.ofNat 32 (2 ^ k - 1) := by
  have hlow : w.toNat % 2 ^ k < 2 ^ 32 := (Nat.mod_le _ _).trans_lt w.isLt
  have hmask : 2 ^ k - 1 < 2 ^ 32 := Nat.sub_one_lt_of_le (Nat.two_pow_pos k) (Nat.pow_le_pow_right (by decide) hk)
  refine BitVec.eq_of_toNat_eq ?_
  rw [BitVec.toNat_setWidth, BitVec.toNat_setWidth, Nat.mod_eq_of_lt hlow, BitVec.toNat_and, BitVec.toNat_ofNat,
    Nat.mod_eq_of_lt hmask, Nat.and_two_pow_sub_one_eq_mod]

theorem srcBits_srcField (w : Word) : srcBits (srcField w) = w &&& 0x08000000#32 := by
  have hbit : w &&& 0x08000000#32 = if w.getLsbD 27 then 0x08000000#32 else 0#32 := BitVec.and_twoPow w 27
  rw [hbit, srcField]
  cases w.getLsbD 27 <;> rfl

/-! The rows of the opcode map. -/

theorem mask_of_row : ∀ r ∈ opcodeRows, r.mask = 0xF0000000#32 ||| r.form.mustBeZero := by decide

theorem pattern_of_row : ∀ r ∈ opcodeRows,
    r.pattern &&& 0xF0000000#32 = r.pattern ∧ r.pattern &&& r.form.mustBeZero = 0#32 := by decide

theorem opOf_pattern_le : ∀ r ∈ opcodeRows, opOf r.pattern ≤ 8 := by decide

theorem mbzOf_opOf_pattern : ∀ r ∈ opcodeRows, mbzOf (opOf r.pattern) = r.form.mustBeZero := by decide

theorem exists_row_of_opOf_le {w : Word} (h : opOf w ≤ 8) : ∃ r ∈ opcodeRows, opOf r.pattern = opOf w :=
  (by decide : ∀ k ≤ 8, ∃ r ∈ opcodeRows, opOf r.pattern = k) _ h

/-- Each row is an opcode and the must-be-zero bits of its form. -/
theorem matches_row_iff {r : Row} (hr : r ∈ opcodeRows) (w : Word) :
    w &&& r.mask = r.pattern ↔ opOf w = opOf r.pattern ∧ w &&& r.form.mustBeZero = 0#32 := by
  obtain ⟨hop, hmbz⟩ := pattern_of_row r hr
  rw [mask_of_row r hr, and_or_eq_iff hop hmbz, ← and_opMask_eq_iff, hop]

theorem rowOf_of_row {r : Row} (hr : r ∈ opcodeRows) {w : Word} (h : opOf w = opOf r.pattern) :
    rowOf w = some (r.form, r.command w) := by
  rw [← opField_toNat] at h
  simp only [opcodeRows, List.mem_cons, List.not_mem_nil, or_false] at hr
  rcases hr with rfl | rfl | rfl | rfl | rfl | rfl | rfl | rfl | rfl <;>
    simp [rowOf, h, opOf, immField_eq_setWidth, lenField_eq_setWidth, srcField]

theorem rowOf_of_opOf_ge {w : Word} (h : 9 ≤ opOf w) : rowOf w = none := by
  rw [← opField_toNat] at h
  unfold rowOf
  split
  case h_10 => rfl
  all_goals omega

/-- The word of what a row's fields spell: the row's pattern, and every bit the row leaves free. -/
theorem encode_command {r : Row} (hr : r ∈ opcodeRows) (w : Word) :
    encode (r.command w) = r.pattern ||| (w &&& ~~~r.mask) := by
  have noField : ∀ p : Word, p = p ||| (w &&& ~~~0xFFFFFFFF#32) := by simp
  have srcLen : srcBits (srcField w) ||| (w.setWidth 16).setWidth 32 = w &&& ~~~0xF7FF0000#32 := by
    rw [srcBits_srcField, setWidth_setWidth_eq_and w (by decide), ← BitVec.and_or_distrib_left]
    rfl
  simp only [opcodeRows, List.mem_cons, List.not_mem_nil, or_false] at hr
  rcases hr with rfl | rfl | rfl | rfl | rfl | rfl | rfl | rfl | rfl
  · exact noField _
  · exact noField _
  · exact noField _
  · exact congrArg (0x30000000#32 ||| ·) (setWidth_setWidth_eq_and w (by decide))
  · exact noField _
  · exact (BitVec.or_assoc ..).trans (congrArg (0x50000000#32 ||| ·) srcLen)
  · exact noField _
  · exact (BitVec.or_assoc ..).trans (congrArg (0x70000000#32 ||| ·) srcLen)
  · exact congrArg (0x80000000#32 ||| ·) (setWidth_setWidth_eq_and w (by decide))

/-- A matching word is given back, its masked bits by the pattern and the others by the fields. -/
theorem encode_command_of_match {r : Row} (hr : r ∈ opcodeRows) {w : Word} (h : w &&& r.mask = r.pattern) :
    encode (r.command w) = w := by
  rw [encode_command hr, ← h, ← BitVec.and_or_distrib_left, BitVec.or_not_self, BitVec.and_allOnes]

theorem encode_matches_row (i : Instr) :
    ∃ r ∈ opcodeRows, encode i &&& r.mask = r.pattern ∧ r.command (encode i) = i := by
  cases i with
  | nop => exact Laws.OpcodeRow.nop
  | bswap => exact Laws.OpcodeRow.bswap
  | crcInit => exact Laws.OpcodeRow.crcInit
  | crcByte imm8 => exact Laws.OpcodeRow.crcByte imm8
  | crcWord => exact Laws.OpcodeRow.crcWord
  | crcBuf src len => exact Laws.OpcodeRow.crcBuf src len
  | crcFinal => exact Laws.OpcodeRow.crcFinal
  | crcBlock src len => exact Laws.OpcodeRow.crcBlock src len
  | deflate len => exact Laws.OpcodeRow.deflate len

/-! LEN. -/

theorem lenInRange_eq_wf (i : Instr) : lenInRange i = i.wf := by
  cases i with
  | crcBuf src len | crcBlock src len => cases src <;> rfl
  | _ => rfl

theorem not_lenTooLong_of_no_len {w : Word} (h : opOf w ∉ [5, 7, 8]) : ¬ lenTooLong w := by
  simp only [List.mem_cons, List.not_mem_nil, or_false, not_or] at h
  simp [lenTooLong, h]

theorem not_lenTooLong_iff_of_src {w : Word} (h : opOf w = 5 ∨ opOf w = 7) :
    ¬ lenTooLong w ↔ (w.setWidth 16).toNat ≤ (srcField w).capacity := by
  have h8 : opOf w ≠ 8 := by omega
  rw [BitVec.toNat_setWidth, srcField, lenTooLong]
  cases w.getLsbD 27 <;> simp [h, h8]

theorem not_lenTooLong_iff_of_deflate {w : Word} (h : opOf w = 8) :
    ¬ lenTooLong w ↔ (w.setWidth 16).toNat ≤ Config.dflInMax := by
  simp [lenTooLong, h]

theorem wf_command_iff {r : Row} (hr : r ∈ opcodeRows) {w : Word} (h : opOf w = opOf r.pattern) :
    (r.command w).wf = true ↔ ¬ lenTooLong w := by
  have noLen : opOf w ∉ [5, 7, 8] → (true = true ↔ ¬ lenTooLong w) := fun hop =>
    iff_of_true rfl (not_lenTooLong_of_no_len hop)
  simp only [opcodeRows, List.mem_cons, List.not_mem_nil, or_false] at hr
  rcases hr with rfl | rfl | rfl | rfl | rfl | rfl | rfl | rfl | rfl
  · exact noLen (by rw [h]; decide)
  · exact noLen (by rw [h]; decide)
  · exact noLen (by rw [h]; decide)
  · exact noLen (by rw [h]; decide)
  · exact noLen (by rw [h]; decide)
  · exact decide_eq_true_iff.trans (not_lenTooLong_iff_of_src (.inl h)).symm
  · exact noLen (by rw [h]; decide)
  · exact decide_eq_true_iff.trans (not_lenTooLong_iff_of_src (.inr h)).symm
  · exact decide_eq_true_iff.trans (not_lenTooLong_iff_of_deflate h).symm

/-! The decoder. -/

theorem decode_of_opOf_ge {w : Word} (h : 9 ≤ opOf w) : decode w = .error .illegalOp := by
  simp only [decode, rowOf_of_opOf_ge h]

theorem decode_of_mustBeZero_set {r : Row} (hr : r ∈ opcodeRows) {w : Word} (hop : opOf w = opOf r.pattern)
    (h : w &&& r.form.mustBeZero ≠ 0#32) : decode w = .error .rsvdField := by
  simp only [decode, rowOf_of_row hr hop, if_pos h]

theorem decode_of_match {r : Row} (hr : r ∈ opcodeRows) {w : Word} (h : w &&& r.mask = r.pattern) :
    decode w = if (r.command w).wf then .ok (r.command w) else .error .lenRange := by
  obtain ⟨hop, hmbz⟩ := (matches_row_iff hr w).1 h
  simp only [decode, rowOf_of_row hr hop, lenInRange_eq_wf, hmbz, ne_eq, not_true_eq_false, if_false]

theorem decode_eq_ok_iff (w : Word) (i : Instr) :
    decode w = .ok i ↔ ∃ r ∈ opcodeRows, w &&& r.mask = r.pattern ∧ r.command w = i ∧ i.wf = true := by
  constructor
  · intro h
    by_cases hge : 9 ≤ opOf w
    · simp [decode_of_opOf_ge hge] at h
    obtain ⟨r, hr, hop⟩ := exists_row_of_opOf_le (w := w) (by omega)
    by_cases hmbz : w &&& r.form.mustBeZero = 0#32
    · have hm := (matches_row_iff hr w).2 ⟨hop.symm, hmbz⟩
      rw [decode_of_match hr hm] at h
      split at h
      · rename_i hwf
        cases h
        exact ⟨r, hr, hm, rfl, hwf⟩
      · cases h
    · simp [decode_of_mustBeZero_set hr hop.symm hmbz] at h
  · rintro ⟨r, hr, hm, rfl, hwf⟩
    rw [decode_of_match hr hm, if_pos hwf]

theorem decode_encode {i : Instr} (h : i.wf = true) : decode (encode i) = .ok i := by
  obtain ⟨r, hr, hm, hi⟩ := encode_matches_row i
  exact (decode_eq_ok_iff _ _).2 ⟨r, hr, hm, hi, h⟩

theorem decode_encode_of_not_wf {i : Instr} (h : i.wf = false) : decode (encode i) = .error .lenRange := by
  obtain ⟨r, hr, hm, hi⟩ := encode_matches_row i
  rw [decode_of_match hr hm, hi, if_neg (ne_true_of_eq_false h)]

/-! The assembler. -/

theorem assemble_crcByte (n : Nat) :
    assemble "CRC_BYTE" [.num n] = (asmField 8 n).map fun b => encode (.crcByte b) := rfl

theorem assemble_crcBuf (src : Buf) (n : Nat) :
    assemble "CRC_BUF" [.buf src, .num n] = (asmField 16 n).map fun len => encode (.crcBuf src len) := rfl

theorem assemble_crcBlock (src : Buf) (n : Nat) :
    assemble "CRC_BLOCK" [.buf src, .num n] = (asmField 16 n).map fun len => encode (.crcBlock src len) := rfl

theorem assemble_deflate (n : Nat) :
    assemble "DEFLATE" [.num n] = (asmField 16 n).map fun len => encode (.deflate len) := rfl

theorem asmField_of_lt {bits n : Nat} (h : n < 2 ^ bits) : asmField bits n = some (BitVec.ofNat bits n) :=
  if_pos h

theorem asmField_of_ge {bits n : Nat} (h : 2 ^ bits ≤ n) : asmField bits n = none :=
  if_neg (Nat.not_lt.2 h)

/-- An operand of `k` bits beside a word whose low `k` bits are 0 is added to it. -/
theorem or_setWidth_ofNat (a : Nat) {k n : Nat} (h : n < 2 ^ k) :
    BitVec.ofNat 32 (2 ^ k * a) ||| (BitVec.ofNat k n).setWidth 32 = BitVec.ofNat 32 (2 ^ k * a + n) := by
  have hn : (BitVec.ofNat k n).setWidth 32 = BitVec.ofNat 32 n :=
    BitVec.eq_of_toNat_eq (by simp [Nat.mod_eq_of_lt h])
  rw [hn, Nat.two_pow_add_eq_or_of_lt h, BitVec.ofNat_or]

end Sys2Proof
end

section
/-! PROOFS. The statements of 30_encoding.md about words: the decoder, the encoder and the assembler. -/

namespace Sys2Proof.Proofs

open Sys2Proof.Safety

/-- Settles O3: the command's word matches the row that spells it. -/
theorem decodeOfEncodeIsTheCommand : Obligations.DecodeOfEncodeIsTheCommand := by
  intro i h
  exact decode_encode h

/-- Settles O4: the word matches the row of the command, and a row gives its words back. -/
theorem encodeOfDecodeIsTheWord : Obligations.EncodeOfDecodeIsTheWord := by
  intro w i h
  obtain ⟨r, hr, hm, rfl, hwf⟩ := (decode_eq_ok_iff w i).1 h
  exact ⟨encode_command_of_match hr hm, hwf⟩

/-- Settles O2: what decodes is a match in range, and a match fixes OP, which no two rows share. -/
theorem decodeIsTheOpcodeMap : Obligations.DecodeIsTheOpcodeMap := by
  refine ⟨fun w i => ?_, mask_of_row, ?_, fun w hge r hr hm => ?_⟩
  · rw [decode_eq_ok_iff]
    refine exists_congr fun r => and_congr_right fun hr => and_congr_right fun hm => and_congr_right fun hi => ?_
    rw [← hi, wf_command_iff hr ((matches_row_iff hr w).1 hm).1]
  · have hops : opcodeRows.Pairwise fun r q => opOf r.pattern ≠ opOf q.pattern := by decide
    refine hops.imp_of_mem fun hr hq hne w hw => hne ?_
    rw [← ((matches_row_iff hr w).1 hw.1).1, ((matches_row_iff hq w).1 hw.2).1]
  · have hle := opOf_pattern_le r hr
    rw [← ((matches_row_iff hr w).1 hm).1] at hle
    omega

/-- Settles O5: an OP up to 8 has its row, and the row answers each check. -/
theorem decodeChecksInOrder : Obligations.DecodeChecksInOrder := by
  intro w
  refine ⟨decode_of_opOf_ge, fun hle hset => ?_, fun hle hz hlong => ?_, fun hle hz hlen => ?_⟩ <;>
    obtain ⟨r, hr, hop⟩ := exists_row_of_opOf_le hle
  · rw [← hop, mbzOf_opOf_pattern r hr] at hset
    exact decode_of_mustBeZero_set hr hop.symm hset
  · rw [← hop, mbzOf_opOf_pattern r hr] at hz
    rw [decode_of_match hr ((matches_row_iff hr w).2 ⟨hop.symm, hz⟩), if_neg]
    rw [wf_command_iff hr hop.symm]
    exact not_not_intro hlong
  · rw [← hop, mbzOf_opOf_pattern r hr] at hz
    refine ⟨r, hr, hop, ?_⟩
    rw [decode_of_match hr ((matches_row_iff hr w).2 ⟨hop.symm, hz⟩), if_pos]
    exact (wf_command_iff hr hop.symm).2 hlen

/-- Settles O6: a numeral that fits its field is added to the row's pattern, and one that does not is refused. -/
theorem assemblerWritesTheTableWords : Obligations.AssemblerWritesTheTableWords := by
  refine ⟨rfl, rfl, rfl, rfl, rfl, fun n hn => ?_, fun n hn => ?_, fun n hn => ?_, fun n src hn => ?_,
    fun i => decode_encode_of_not_wf⟩
  · have hlt : n < 2 ^ 8 := by omega
    rw [assemble_crcByte, asmField_of_lt hlt]
    exact congrArg some (or_setWidth_ofNat 0x300000 hlt)
  · rw [assemble_crcByte, asmField_of_ge (by omega)]
    rfl
  · have hlt : n < 2 ^ 16 := by omega
    simp only [assemble_crcBuf, assemble_crcBlock, assemble_deflate, asmField_of_lt hlt]
    exact ⟨congrArg some (or_setWidth_ofNat 0x5000 hlt), congrArg some (or_setWidth_ofNat 0x5800 hlt),
      congrArg some (or_setWidth_ofNat 0x7000 hlt), congrArg some (or_setWidth_ofNat 0x7800 hlt),
      congrArg some (or_setWidth_ofNat 0x8000 hlt)⟩
  · simp only [assemble_crcBuf, assemble_crcBlock, assemble_deflate, asmField_of_ge (show 2 ^ 16 ≤ n by omega)]
    exact ⟨rfl, rfl, rfl⟩

/-- Settles O1: eleven closed facts about the decoder. -/
theorem writtenWordsDecode : Obligations.WrittenWordsDecode := by
  unfold Obligations.WrittenWordsDecode
  decide

end Sys2Proof.Proofs
end

section
/-! PROOFS. One step by whose turn it is (60_exceptions.md R194, 30_encoding.md R98), the acceptance of a command that
decodes (R192) and its completion, and a whole `WAIT` (30_encoding.md R99). -/

namespace Sys2Proof.Machine

open Sys2Proof.Safety

/-! Turns. -/

/-- The host's turn at an operation of its program. -/
theorem step_of_hostNext {s : State} {op : HostOp} (h : hostNext s op) :
    step s = .next (State.hostDo { s with sched := s.nextTurn.2 } op) := by
  obtain ⟨hturn, hop⟩ := h
  simp only [step, hturn, State.runTurn, State.hostTurn, hop]

/-- The engine's turn with a command in flight. -/
theorem step_of_engine {s : State} {i : Instr} (hturn : s.nextTurn.1 = .engine) (hp : s.pend = true)
    (hd : decode s.cmd = .ok i) : step s = exec i { s with sched := s.nextTurn.2 } := by
  simp only [step, hturn, State.runTurn, State.engineTurn, hp, if_true, State.complete, hd]

theorem memRead_sched (s : State) (q : Schedule) (off : Offset) :
    memRead { s with sched := q } off = memRead s off := by
  rcases memRead_cases off with h | ⟨r, -, h⟩ | h
  · rw [h, h]
  · rw [h, h]
    cases r <;> rfl
  · rw [h, h]
    rfl

/-- A poll of BUSY: the host goes to the label while PEND = 1, and else on. -/
theorem step_of_poll {s : State} {target : Nat} (h : hostNext s (.bitSet offStatus 0 target)) :
    step s = .next { s with
      sched := s.nextTurn.2
      hpc := if s.pend then target else s.hpc + 1
      reply := some (.read s.statusWord .okay) } := by
  have hread : memRead s offStatus = (s.statusWord, .okay) := memRead_reg s place_offStatus
  have hbusy : s.statusWord.getLsbD (0 : Fin 32) = s.pend := s.statusWord_busy
  rw [step_of_hostNext h, State.hostDo, memRead_sched, hread, hbusy]

/-! Acceptance and completion. -/

theorem decodeTableWord_32_eq_some {w : Nat} {i : Instr} (h : decodeTableWord 32 w = some i) :
    decode (tableWord 32 w) = .ok i := by
  simp only [decodeTableWord, Nat.le_refl, if_true] at h
  split at h
  · cases h
    assumption
  · cases h

theorem tableWord_32 (w : Nat) : tableWord 32 w = BitVec.ofNat 32 w :=
  BitVec.eq_of_toNat_eq (by simp [tableWord])

/-- The host's write of a word that decodes, to an idle engine. -/
theorem step_of_cmdWrite {s : State} {w : Word} {i : Instr} (h : hostNext s (.w offCmd w)) (hp : s.pend = false)
    (hd : decode w = .ok i) :
    step s = .next { s.accept w with sched := s.nextTurn.2, hpc := s.hpc + 1, reply := some (.write .okay) } := by
  have hwrite : memWrite s offCmd w 0b1111#4 = (s.accept w, .okay) := by
    rw [memWrite_reg s w place_offCmd rfl (by simp [hp]), State.writeReg, State.submit, hd]
  rw [step_of_hostNext h, HostOp.w, State.hostDo, memWrite_sched, hwrite]

/-- No command in range refuses. -/
theorem exec_next_of_wf {i : Instr} (h : i.wf = true) (s : State) : ∃ t, exec i s = .next t := by
  cases i with
  | crcBuf src len =>
    have hfits : lenFits src len = true := by cases src <;> exact h
    exact ⟨_, if_pos hfits⟩
  | crcBlock src len =>
    have hfits : lenFits src len = true := by cases src <;> exact h
    exact ⟨_, if_pos hfits⟩
  | deflate len => exact ⟨_, if_pos h⟩
  | _ => exact ⟨_, rfl⟩

theorem exec_next_prog {i : Instr} {s t : State} (h : exec i s = .next t) : t.prog = s.prog := by
  rcases exec_next_writes h with rfl | ⟨-, r, rfl⟩ | ⟨-, c, rfl⟩ | ⟨-, out, -, rfl⟩ <;> rfl

/-! WAIT. -/

/-- The same engine and program, with the host's place, the schedule and the reply replaced. -/
def State.hostAt (s : State) (p : Nat) (q : Schedule) (r : Option Reply) : State :=
  { s with hpc := p, sched := q, reply := r }

/-- A listed poll at `WAIT`: the host stays while PEND = 1, and else leaves. -/
theorem step_poll {s : State} {p m c : Nat} {turns : List Turn} {r : Option Reply}
    (hop : s.prog[p]? = some (.bitSet offStatus 0 p)) :
    step (s.hostAt p ⟨.host :: turns, m, c⟩ r) =
      .next (s.hostAt (if s.pend then p else p + 1) ⟨turns, m, c⟩ (some (.read s.statusWord .okay))) :=
  step_of_poll ⟨rfl, hop⟩

/-- A listed completion, wherever the host is. -/
theorem step_completion {s t : State} {i : Instr} {p m c : Nat} {turns : List Turn} {r : Option Reply}
    (hp : s.pend = true) (hd : decode s.cmd = .ok i) (ht : exec i s = .next t) :
    step (s.hostAt p ⟨.engine :: turns, m, c⟩ r) = .next (t.hostAt p ⟨turns, m, c⟩ r) := by
  rw [step_of_engine (s := s.hostAt p ⟨.engine :: turns, m, c⟩ r) rfl hp hd]
  exact exec_host ht p ⟨turns, m, c⟩ r

/-- While PEND = 1 the host stays at `WAIT` for as many turns as it gets. -/
theorem run_polls {s : State} {p m c : Nat} {turns : List Turn} (n k : Nat) (r : Option Reply) (hp : s.pend = true)
    (hop : s.prog[p]? = some (.bitSet offStatus 0 p)) :
    ∃ r', Sys2Proof.core.run (n + k) (s.hostAt p ⟨List.replicate n .host ++ turns, m, c⟩ r) =
      Sys2Proof.core.run k (s.hostAt p ⟨turns, m, c⟩ r') := by
  induction n generalizing r with
  | zero => exact ⟨r, by rw [Nat.zero_add]; rfl⟩
  | succ n ih =>
    obtain ⟨r', hrest⟩ := ih (some (.read s.statusWord .okay))
    refine ⟨r', ?_⟩
    rw [Nat.add_right_comm, List.replicate_succ, List.cons_append, run_succ_of_next (step_poll hop), hp, if_pos rfl,
      hrest]

/-- `WAIT` with a command in flight: `n` polls, the completion, and the poll that leaves the loop. -/
theorem run_wait {s t : State} {i : Instr} {p m c : Nat} {turns : List Turn} (n : Nat) (r : Option Reply)
    (hp : s.pend = true) (hd : decode s.cmd = .ok i) (ht : exec i s = .next t)
    (hop : s.prog[p]? = some (.bitSet offStatus 0 p)) :
    Sys2Proof.core.run (n + 2) (s.hostAt p ⟨List.replicate n .host ++ .engine :: .host :: turns, m, c⟩ r) =
      .next (t.hostAt (p + 1) ⟨turns, m, c⟩ (some (.read t.statusWord .okay))) := by
  obtain ⟨r', hpolls⟩ := run_polls n 2 r hp hop
  rw [← exec_next_prog ht] at hop
  have hleave := step_poll (m := m) (c := c) (turns := turns) (r := r') hop
  rw [exec_next_pend ht] at hleave
  rw [hpolls, run_succ_of_next (step_completion hp hd ht), run_succ_of_next hleave, run_zero]
  rfl

end Sys2Proof.Machine
end

section
/-! PROOFS. The statements of 30_encoding.md about the host notation and the word it submits. -/

namespace Sys2Proof.Proofs

open Sys2Proof.Machine Sys2Proof.Safety

/-- Settles O55: the CMD write is accepted, and the rest is one `WAIT`. -/
theorem issueRunsItsCommandAtEveryLatency : Obligations.IssueRunsItsCommandAtEveryLatency := by
  intro s i n rest hwf hp hl hprog
  have hd := decode_encode hwf
  obtain ⟨t, ht⟩ := exec_next_of_wf hwf (s.accept (encode i))
  have hturn : s.nextTurn =
      (.host, { s.sched with listed := List.replicate n .host ++ .engine :: .host :: rest }) := by
    simp only [State.nextTurn, hl]
  have hwrite := step_of_cmdWrite ⟨by rw [hturn], hprog 0 (by decide)⟩ hp hd
  rw [hturn] at hwrite
  refine ⟨t, ht, ?_⟩
  rw [run_succ_of_next hwrite]
  exact run_wait n _ rfl hd ht (hprog 1 (by decide))

/-- Settles O21: the listed turn is the engine's, and the schedule after it is the one before. -/
theorem fetchWordIsRunNext : Obligations.FetchWordIsRunNext := by
  intro s w i h
  have hstep : step (s.withFetchWord 32 w) = exec i (s.accept (tableWord 32 w)) :=
    step_of_engine rfl rfl (decodeTableWord_32_eq_some h)
  rw [hstep, tableWord_32]

/-- Settles O53: each operation is one access, which does not see the schedule. -/
theorem hostTurnPerformsOneAccess : Obligations.HostTurnPerformsOneAccess := by
  refine fun s => ⟨fun off h => ?_, fun off v strb h => ⟨_, step_of_hostNext h, ?_⟩, fun off n target h => ?_⟩
  · rw [step_of_hostNext h, State.hostDo, memRead_sched]
  · obtain ⟨-, hpc, hsched, hreply, -⟩ := memWrite_host s off v strb
    rw [State.hostDo, memWrite_sched]
    refine ⟨rfl, rfl, ?_⟩
    rw [← hpc, ← hsched, ← hreply]
  · rw [step_of_hostNext h, State.hostDo, memRead_sched]

/-- Settles O54: each expansion is the definition's own line. -/
theorem pseudoInstructionExpansions : Obligations.PseudoInstructionExpansions :=
  fun _ _ _ _ _ _ => ⟨rfl, rfl, rfl, rfl, rfl, rfl, rfl⟩

end Sys2Proof.Proofs
end

section
/-! PROOFS. Every command's CMD write (60_exceptions.md R192): a word that decodes is accepted, and a word with a row's
opcode meets that row's two errors. Then STATUS = 0 by its fields, and STATUS after a completion (10_state.md R25). -/

namespace Sys2Proof.Machine

open Sys2Proof.Safety

/-! The CMD write. -/

theorem memWrite_cmd_of_busy (s : State) (w : Word) (hp : s.pend = true) :
    memWrite s offCmd w 0b1111#4 = (s.raiseErr .busy, .okay) :=
  memWrite_guarded_of_busy s w place_offCmd rfl rfl hp

theorem memWrite_cmd_of_idle (s : State) (w : Word) (hp : s.pend = false) :
    memWrite s offCmd w 0b1111#4 = (s.submit w, .okay) :=
  memWrite_reg s w place_offCmd rfl (by simp [hp])

theorem State.submit_of_decode_ok (s : State) {w : Word} {i : Instr} (h : decode w = .ok i) :
    s.submit w = s.accept w := by
  rw [State.submit, h]

theorem State.submit_of_decode_error (s : State) {w : Word} {e : ErrCode} (h : decode w = .error e) :
    s.submit w = s.raiseErr e := by
  rw [State.submit, h]

theorem accepts_of_decode_ok {w : Word} {i : Instr} (h : decode w = .ok i) : accepts w := by
  intro s hp
  rw [memWrite_cmd_of_idle s w hp, s.submit_of_decode_ok h, State.accept]

theorem rejects_of_row {r : Row} (hr : r ∈ opcodeRows) : rejects r.pattern r.form.mustBeZero := by
  refine ⟨fun s w hp _ => memWrite_cmd_of_busy s w hp, fun s w hp hop hset => ?_⟩
  rw [memWrite_cmd_of_idle s w hp, s.submit_of_decode_error (decode_of_mustBeZero_set hr hop hset)]

/-! STATUS. -/

theorem State.fields_of_statusWord_eq_zero {s : State} (h : s.statusWord = 0x00000000#32) :
    s.pend = false ∧ s.done = false ∧ s.err = false ∧ s.ecode = 0#4 := by
  have hbit : ∀ n, s.statusWord.getLsbD n = false := by simp [h]
  have hcode : s.ecode = 0#4 := by
    rw [← s.statusWord_ecode, h]
    rfl
  exact ⟨(s.statusWord_getLsbD 0).symm.trans (hbit 0), (s.statusWord_getLsbD 1).symm.trans (hbit 1),
    (s.statusWord_getLsbD 2).symm.trans (hbit 2), hcode⟩

theorem State.statusWord_completeOk {s : State} (herr : s.err = false) (hcode : s.ecode = 0#4) :
    s.completeOk.statusWord = 0x00000002#32 := by
  simp [State.statusWord, herr, hcode]

end Sys2Proof.Machine
end

section
/-! PROOFS. BSWAP lane by lane (40_byteorder.md R121, R122). -/

namespace Sys2Proof.Machine

theorem getLsbD_lane (v : Word) (k j : Nat) : (lane v k).getLsbD j = (decide (j < 8) && v.getLsbD (8 * k + j)) :=
  BitVec.getLsbD_extractLsb' ..

/-- A word is its four lanes. -/
theorem eq_of_lanes {v w : Word} (h : ∀ k < 4, lane v k = lane w k) : v = w := by
  refine BitVec.eq_of_getLsbD_eq fun i hi => ?_
  have hbit := congrArg (fun b : Byte => b.getLsbD (i % 8)) (h (i / 8) (by omega))
  simpa only [getLsbD_lane, Nat.mod_lt i (by decide : 8 > 0), Nat.div_add_mod, decide_true, Bool.true_and] using hbit

/-- BSWAP reverses the lanes: in each lane the byte boundaries say which of the four bytes the bit is in. -/
theorem lane_bswap (v : Word) {k : Nat} (h : k < 4) : lane (bswap v) k = lane v (3 - k) := by
  refine BitVec.eq_of_getLsbD_eq fun i hi => ?_
  simp only [bswap, getLsbD_lane, BitVec.getLsbD_append]
  interval_cases k <;> grind

theorem bswap_bswap (v : Word) : bswap (bswap v) = v := by
  refine eq_of_lanes fun k hk => ?_
  rw [lane_bswap _ hk, lane_bswap _ (by omega), Nat.sub_sub_self (by omega)]

theorem bswap_of_palindrome {v : Word} (outer : lane v 0 = lane v 3) (inner : lane v 1 = lane v 2) : bswap v = v := by
  refine eq_of_lanes fun k hk => ?_
  rw [lane_bswap v hk]
  interval_cases k
  · exact outer.symm
  · exact inner.symm
  · exact inner
  · exact outer

theorem lanes_bswap (v : Word) : (List.range 4).map (lane (bswap v)) = be32 v := by
  have hlanes : (List.range 4).map (lane (bswap v)) = (List.range 4).map fun k => lane v (3 - k) :=
    List.map_congr_left fun k hk => lane_bswap v (List.mem_range.1 hk)
  exact hlanes

end Sys2Proof.Machine
end

section
/-! PROOFS. The statements of 40_byteorder.md. -/

namespace Sys2Proof.Proofs

open Sys2Proof.Machine Sys2Proof.Safety

/-- Settles O22: the row of NOP, and from STATUS = 0 the completion of the accepted state, which keeps ERR and ECODE. -/
theorem nopRule : Obligations.NopRule := by
  have hdec : decode 0x00000000#32 = .ok .nop := decode_encode (i := .nop) rfl
  refine ⟨hdec, accepts_of_decode_ok hdec, rejects_of_row (r := opcodeRows[0]) (List.getElem_mem _), fun s => rfl,
    fun s hs => ?_⟩
  obtain ⟨hpend, -, herr, hcode⟩ := State.fields_of_statusWord_eq_zero hs
  rw [memWrite_cmd_of_idle s _ hpend, s.submit_of_decode_ok hdec]
  exact ⟨(s.accept 0x00000000#32).completeOk, rfl, State.statusWord_completeOk herr hcode⟩

/-- Settles O23: the row of BSWAP, and the reversal lane by lane. -/
theorem bswapRule : Obligations.BswapRule := by
  have hdec : decode 0x10000000#32 = .ok .bswap := decode_encode (i := .bswap) rfl
  exact ⟨hdec, accepts_of_decode_ok hdec, rejects_of_row (r := opcodeRows[1]) (List.getElem_mem _), fun s => rfl,
    fun _ => bswap_of_palindrome, bswap_bswap, by decide⟩

/-- Settles O24: lane `k` of the reversal is lane `3 - k`. -/
theorem bswapSerializesBigEndian : Obligations.BswapSerializesBigEndian := by
  intro x
  exact lanes_bswap x

end Sys2Proof.Proofs
end

section
/-! PROOFS. The CRC function (41_crc.md R130 to R136): the iteration of R132 is linear over exclusive-or, shifts where no
set bit leaves the register, and is the normal form's iteration on the reversed register; the fold of R133 over a
concatenation, and the block checksum of R136 as that fold from the tag. -/

namespace Sys2Proof.Machine

open Sys2Proof.Safety

/-! The iteration over exclusive-or. -/

/-- The polynomial is added when the bit shifted out is 1. -/
theorem crcStep_eq (c : Word) : crcStep c = c >>> 1 ^^^ if c.getLsbD 0 then crcPoly else 0#32 := by
  unfold crcStep
  split
  · rfl
  · rw [BitVec.xor_zero]

theorem crcStep_xor (c d : Word) : crcStep (c ^^^ d) = crcStep c ^^^ crcStep d := by
  have hpoly : (if (c ^^^ d).getLsbD 0 then crcPoly else 0#32) =
      (if c.getLsbD 0 then crcPoly else 0#32) ^^^ if d.getLsbD 0 then crcPoly else 0#32 := by
    rw [BitVec.getLsbD_xor]
    cases c.getLsbD 0 <;> cases d.getLsbD 0 <;> simp
  rw [crcStep_eq, crcStep_eq c, crcStep_eq d, hpoly, BitVec.ushiftRight_xor_distrib]
  ac_rfl

theorem crcSteps_xor (n : Nat) (c d : Word) : crcSteps n (c ^^^ d) = crcSteps n c ^^^ crcSteps n d := by
  induction n generalizing c d with
  | zero => rfl
  | succ n ih => rw [crcSteps, crcStep_xor, ih, crcSteps, crcSteps]

/-- Iterations that shift out only zeros are a shift. -/
theorem crcSteps_of_low_zero {n : Nat} {c : Word} (h : ∀ i < n, c.getLsbD i = false) : crcSteps n c = c >>> n := by
  induction n generalizing c with
  | zero => rfl
  | succ n ih =>
    have hstep : crcStep c = c >>> 1 := if_neg (ne_true_of_eq_false (h 0 n.succ_pos))
    have hlow : ∀ i < n, (c >>> 1).getLsbD i = false := fun i hi => by
      rw [BitVec.getLsbD_ushiftRight]
      exact h (1 + i) (by omega)
    rw [crcSteps, hstep, ih hlow, ← BitVec.shiftRight_add, Nat.add_comm]

theorem setWidth_byte_ushiftRight (b : Byte) : b.setWidth 32 >>> 8 = 0#32 := by
  ext i hi
  simp

/-- The table form: the byte shifted out chooses the table's entry, and the rest of the register is shifted. -/
theorem crcUpd_eq_table (c : Word) (b : Byte) :
    crcUpd c b = c >>> 8 ^^^ crcUpd 0#32 ((c ^^^ b.setWidth 32).extractLsb' 0 8) := by
  have hhigh : (c ^^^ b.setWidth 32) >>> 8 = c >>> 8 := by
    rw [BitVec.ushiftRight_xor_distrib, setWidth_byte_ushiftRight, BitVec.xor_zero]
  rw [← hhigh, crcUpd, crcUpd, BitVec.zero_xor]
  generalize c ^^^ b.setWidth 32 = x
  generalize hlow : (x.extractLsb' 0 8).setWidth 32 = low
  have hzero : ∀ i < 8, (x ^^^ low).getLsbD i = false := fun i hi => by
    subst hlow
    simp [hi, show i < 32 by omega]
  have hshift : (x ^^^ low) >>> 8 = x >>> 8 := by
    rw [BitVec.ushiftRight_xor_distrib, ← hlow, setWidth_byte_ushiftRight, BitVec.xor_zero]
  calc crcSteps 8 x = crcSteps 8 ((x ^^^ low) ^^^ low) := by rw [BitVec.xor_assoc, BitVec.xor_self, BitVec.xor_zero]
    _ = crcSteps 8 (x ^^^ low) ^^^ crcSteps 8 low := crcSteps_xor 8 _ _
    _ = x >>> 8 ^^^ crcSteps 8 low := by rw [crcSteps_of_low_zero hzero, hshift]

/-! The normal form. -/

theorem reverse_xor (c d : Word) : (c ^^^ d).reverse = c.reverse ^^^ d.reverse := by
  refine BitVec.eq_of_getLsbD_eq fun i hi => ?_
  simp only [BitVec.getLsbD_reverse, BitVec.getLsbD_xor, BitVec.getMsbD_xor]

theorem reverse_shiftLeft_reverse (c : Word) : (c.reverse <<< 1).reverse = c >>> 1 := by
  refine BitVec.eq_of_getLsbD_eq fun i hi => ?_
  simp [BitVec.getLsbD_reverse, BitVec.getMsbD_shiftLeft, BitVec.getMsbD_reverse, Nat.add_comm]

theorem crcPoly_eq_reverse : crcPoly = (0x04C11DB7#32).reverse := by decide +kernel

/-- An iteration with message bits waiting in `m` takes in the next one as the normal form does, and moves up the rest. -/
theorem crcStep_xor_eq_normalStep (c m : Word) :
    crcStep (c ^^^ m) = (normalStep c.reverse (m.getLsbD 0)).reverse ^^^ m >>> 1 := by
  have hnormal : (normalStep c.reverse (m.getLsbD 0)).reverse =
      c >>> 1 ^^^ if (c ^^^ m).getLsbD 0 then crcPoly else 0#32 := by
    rw [normalStep, BitVec.msb_reverse, Bool.bne_eq_xor, ← BitVec.getLsbD_xor]
    cases (c ^^^ m).getLsbD 0
    · simp [reverse_shiftLeft_reverse]
    · simp [reverse_xor, reverse_shiftLeft_reverse, crcPoly_eq_reverse]
  rw [hnormal, crcStep_eq, BitVec.ushiftRight_xor_distrib]
  ac_rfl

/-- Message bits taken in all at once, or one at a time by the normal form, least significant bit first. -/
theorem crcSteps_eq_foldl_normalStep {n : Nat} (c : Word) {m : Word} (h : m >>> n = 0#32) :
    crcSteps n (c ^^^ m) = (((List.range n).map m.getLsbD).foldl normalStep c.reverse).reverse := by
  induction n generalizing c m with
  | zero =>
    have hm : m = 0#32 := h
    rw [hm, BitVec.xor_zero, List.range_zero, List.map_nil, List.foldl_nil, BitVec.reverse_reverse_eq, crcSteps]
  | succ n ih =>
    have hrest : m >>> 1 >>> n = 0#32 := by rw [← BitVec.shiftRight_add, Nat.add_comm, h]
    have hbits : (List.range n).map (m >>> 1).getLsbD = (List.range n).map (m.getLsbD ∘ Nat.succ) :=
      List.map_congr_left fun i _ => by rw [BitVec.getLsbD_ushiftRight, Nat.add_comm, Function.comp]
    rw [crcSteps, crcStep_xor_eq_normalStep, ih _ hrest, BitVec.reverse_reverse_eq, hbits, List.range_succ_eq_map,
      List.map_cons, List.foldl_cons, List.map_map]

theorem crcUpd_eq_normalUpd (c : Word) (b : Byte) : crcUpd c b = (normalUpd c.reverse b).reverse := by
  have hbits : (List.range 8).map (b.setWidth 32).getLsbD = (List.range 8).map b.getLsbD :=
    List.map_congr_left fun i hi => by
      have hlt := List.mem_range.1 hi
      simp [show i < 32 by omega]
  rw [crcUpd, crcSteps_eq_foldl_normalStep c (setWidth_byte_ushiftRight b), hbits, normalUpd]

/-! The fold. -/

theorem crcSeq_append (c : Word) (a b : List Byte) : crcSeq c (a ++ b) = crcSeq (crcSeq c a) b := by
  induction a generalizing c with
  | nil => rfl
  | cons x a ih => exact ih (crcUpd c x)

theorem blockCrc_eq (tag : Word) (p : List Byte) : blockCrc tag p = crcFin (crcSeq (crcWord crcInitValue tag) p) := by
  rw [blockCrc, crcSeq_append, crcWord]

end Sys2Proof.Machine
end

section
/-! PROOFS. The CRC commands: a CMD write of a command by whether LEN is in range (30_encoding.md R94), the completion of
CRC_BUF and CRC_BLOCK in range (41_crc.md R143, R145), and completions one after another. -/

namespace Sys2Proof.Machine

open Sys2Proof.Safety

/-! The CMD write. -/

theorem decode_accepts_of_wf {i : Instr} (h : i.wf = true) : decode (encode i) = .ok i ∧ accepts (encode i) :=
  ⟨decode_encode h, accepts_of_decode_ok (decode_encode h)⟩

theorem rejectsLength_of_not_wf {i : Instr} (h : i.wf = false) : rejectsLength (encode i) := by
  intro s hp
  rw [memWrite_cmd_of_idle s _ hp, s.submit_of_decode_error (decode_encode_of_not_wf h)]

/-- Both sides of LEN's bound, for a command whose one check it is. -/
theorem cmdWrite_by_length {i : Instr} {len bound : Nat} (h : i.wf = decide (len ≤ bound)) :
    (len ≤ bound → decode (encode i) = .ok i ∧ accepts (encode i)) ∧ (bound < len → rejectsLength (encode i)) :=
  ⟨fun hle => decode_accepts_of_wf (h.trans (decide_eq_true hle)),
    fun hlt => rejectsLength_of_not_wf (h.trans (decide_eq_false (Nat.not_le.2 hlt)))⟩

/-! Completions. -/

theorem lenFits_of_le {src : Buf} {len : BitVec 16} (h : len.toNat ≤ src.capacity) : lenFits src len = true := by
  cases src <;> exact decide_eq_true h

theorem exec_crcBuf {src : Buf} {len : BitVec 16} (h : len.toNat ≤ src.capacity) (s : State) :
    exec (.crcBuf src len) s =
      .next (State.completeOk { s with crc := crcSeq s.crc (s.bufBytes src len.toNat) }) :=
  if_pos (lenFits_of_le h)

theorem exec_crcBlock {src : Buf} {len : BitVec 16} (h : len.toNat ≤ src.capacity) (s : State) :
    exec (.crcBlock src len) s =
      .next (State.completeOk
        { s with res := crcFin (crcSeq (crcWord crcInitValue s.arg) (s.bufBytes src len.toNat)) }) := by
  rw [← blockCrc_eq]
  exact if_pos (lenFits_of_le h)

theorem execAll_cons_of_next {i : Instr} {s t : State} (h : exec i s = .next t) (is : List Instr) :
    execAll (i :: is) s = execAll is t := by
  rw [execAll, h]

end Sys2Proof.Machine
end

section
/-! PROOFS. The statements of 41_crc.md. -/

namespace Sys2Proof.Proofs

open Sys2Proof.Machine Sys2Proof.Safety

/-- Settles O35: eight iterations take in the byte's bits as the normal form does on the reversed register. -/
theorem crcIsTheReflectedCrc32 : Obligations.CrcIsTheReflectedCrc32 :=
  ⟨crcPoly_eq_reverse, crcUpd_eq_normalUpd, by decide +kernel⟩

/-- Settles O36: the fold splits at any place, the iteration is linear, and the rest are closed facts. -/
theorem crcLaws : Obligations.CrcLaws :=
  ⟨crcSeq_append, crcUpd_eq_table, by decide, by decide, 0#32, 0#8, 1#8, by decide +kernel⟩

/-- Settles O37: both paths fold the tag's bytes and then the buffer's, which no CRC command writes. -/
theorem blockChecksumEqualsTheIncrementalPath : Obligations.BlockChecksumEqualsTheIncrementalPath := by
  intro s src len hwf
  have hle : len.toNat ≤ src.capacity := of_decide_eq_true hwf
  refine ⟨_, exec_crcBlock hle s, rfl, ?_⟩
  rw [execAll_cons_of_next (t := State.completeOk { s with crc := crcInitValue }) rfl,
    execAll_cons_of_next (t := State.completeOk { s with crc := crcWord crcInitValue s.arg }) rfl,
    execAll_cons_of_next (exec_crcBuf hle _), crcSeq_append]
  rfl

/-- Settles O28: the row of CRC_BUF, LEN's bound for each buffer, and the completion in range. -/
theorem crcBufRule : Obligations.CrcBufRule := by
  refine ⟨fun len => ?_, rejects_of_row (r := opcodeRows[5]) (List.getElem_mem _), fun s len => ?_, fun s len => ?_,
    fun s src => ?_⟩
  · obtain ⟨ibufFits, ibufTooLong⟩ := cmdWrite_by_length (i := .crcBuf .ibuf len) (bound := 32) rfl
    obtain ⟨obufFits, obufTooLong⟩ := cmdWrite_by_length (i := .crcBuf .obuf len) (bound := 64) rfl
    exact ⟨ibufFits, ibufTooLong, obufFits, obufTooLong⟩
  · exact fun h => exec_crcBuf (src := .ibuf) h s
  · exact fun h => exec_crcBuf (src := .obuf) h s
  · exact exec_crcBuf (Nat.zero_le _) s

/-- Settles O30: the row of CRC_BLOCK, LEN's bound for each buffer, and the completion in range. -/
theorem crcBlockRule : Obligations.CrcBlockRule := by
  refine ⟨fun len => ?_, rejects_of_row (r := opcodeRows[7]) (List.getElem_mem _), fun s len => ?_, fun s len => ?_,
    fun s src harg => ⟨_, exec_crcBlock (Nat.zero_le _) s, ?_⟩⟩
  · obtain ⟨ibufFits, ibufTooLong⟩ := cmdWrite_by_length (i := .crcBlock .ibuf len) (bound := 32) rfl
    obtain ⟨obufFits, obufTooLong⟩ := cmdWrite_by_length (i := .crcBlock .obuf len) (bound := 64) rfl
    exact ⟨ibufFits, ibufTooLong, obufFits, obufTooLong⟩
  · exact fun h => exec_crcBlock (src := .ibuf) h s
  · exact fun h => exec_crcBlock (src := .obuf) h s
  · have hres : crcFin (crcSeq (crcWord crcInitValue 0x49454E44#32) []) = 0xAE426082#32 := by decide +kernel
    rw [← harg] at hres
    exact hres

/-- Settles O25: the row of CRC_INIT. -/
theorem crcInitRule : Obligations.CrcInitRule := by
  obtain ⟨hdec, hacc⟩ := decode_accepts_of_wf (i := .crcInit) rfl
  exact ⟨hdec, hacc, rejects_of_row (r := opcodeRows[2]) (List.getElem_mem _), fun _ => rfl⟩

/-- Settles O26: the row of CRC_BYTE, whose every byte is well formed. -/
theorem crcByteRule : Obligations.CrcByteRule :=
  ⟨fun b => decode_accepts_of_wf (i := .crcByte b) rfl, rejects_of_row (r := opcodeRows[3]) (List.getElem_mem _),
    fun _ _ => rfl, by decide +kernel⟩

/-- Settles O27: the row of CRC_WORD, and the fold over the four lanes of ARG. -/
theorem crcWordRule : Obligations.CrcWordRule := by
  obtain ⟨hdec, hacc⟩ := decode_accepts_of_wf (i := .crcWord) rfl
  exact ⟨hdec, hacc, rejects_of_row (r := opcodeRows[4]) (List.getElem_mem _), fun _ => rfl, by decide +kernel⟩

/-- Settles O29: the row of CRC_FINAL, and the complement of the initial value. -/
theorem crcFinalRule : Obligations.CrcFinalRule := by
  obtain ⟨hdec, hacc⟩ := decode_accepts_of_wf (i := .crcFinal) rfl
  refine ⟨hdec, hacc, rejects_of_row (r := opcodeRows[6]) (List.getElem_mem _), fun _ => rfl, fun _ => ⟨_, rfl, ?_⟩,
    fun s hcrc => ⟨_, rfl, ?_⟩⟩
  · exact BitVec.xor_self
  · have hres : crcFin 0x51BD9F7D#32 = 0xAE426082#32 := by decide
    rw [← hcrc] at hres
    exact hres

end Sys2Proof.Proofs
end

section
/-! PROOFS. Adler-32 (42_deflate.md R165): while the plain sums stay below the modulus the reduction leaves them, the
checksum holds both of them, and for at most 4 bytes they stay below it. -/

namespace Sys2Proof.Machine

open Sys2Proof.Safety

theorem le_plainSums (a b : Nat) (input : List Byte) :
    a ≤ (plainSums a b input).1 ∧ b ≤ (plainSums a b input).2 := by
  induction input generalizing a b with
  | nil => exact ⟨le_rfl, le_rfl⟩
  | cons x xs ih =>
    obtain ⟨ha, hb⟩ := ih (a + x.toNat) (b + (a + x.toNat))
    rw [plainSums]
    omega

/-- The sum of bytes grows by at most 255 a byte, and the sum of sums by at most the former's bound. -/
theorem plainSums_le {a b m : Nat} {input : List Byte} (h : a + 255 * input.length ≤ m) :
    (plainSums a b input).1 ≤ m ∧ (plainSums a b input).2 ≤ b + input.length * m := by
  induction input generalizing a b with
  | nil => simpa [plainSums] using h
  | cons x xs ih =>
    have hx := x.isLt
    rw [List.length_cons] at h ⊢
    obtain ⟨ha, hb⟩ := ih (a := a + x.toNat) (b := b + (a + x.toNat)) (by omega)
    rw [plainSums, Nat.succ_mul]
    omega

theorem plainSums_le_of_length_le {input : List Byte} (h : input.length ≤ 4) :
    (plainSums 1 0 input).1 ≤ 1021 ∧ (plainSums 1 0 input).2 ≤ 4 * 1021 := by
  obtain ⟨ha, hb⟩ := plainSums_le (a := 1) (b := 0) (m := 1021) (input := input) (by omega)
  omega

theorem adlerSums_eq_plainSums {a b : Nat} {input : List Byte} (ha : (plainSums a b input).1 < 65521)
    (hb : (plainSums a b input).2 < 65521) : adlerSums a b input = plainSums a b input := by
  induction input generalizing a b with
  | nil => rfl
  | cons x xs ih =>
    rw [plainSums] at ha hb ⊢
    obtain ⟨hale, hble⟩ := le_plainSums (a + x.toNat) (b + (a + x.toNat)) xs
    rw [adlerSums, Nat.mod_eq_of_lt (show a + x.toNat < 65521 by omega),
      Nat.mod_eq_of_lt (show b + (a + x.toNat) < 65521 by omega), ih ha hb]

theorem ofNat_append_ofNat (b : Nat) {a : Nat} (h : a < 65536) :
    BitVec.ofNat 16 b ++ BitVec.ofNat 16 a = BitVec.ofNat 32 (b * 65536 + a) := by
  refine BitVec.eq_of_toNat_eq ?_
  rw [BitVec.toNat_append, ← Nat.shiftLeft_add_eq_or_of_lt (BitVec.isLt _), Nat.shiftLeft_eq]
  simp only [BitVec.toNat_ofNat]
  omega

theorem adler32_eq_plainSums {input : List Byte} (ha : (plainSums 1 0 input).1 < 65521)
    (hb : (plainSums 1 0 input).2 < 65521) :
    adler32 input = BitVec.ofNat 32 ((plainSums 1 0 input).2 * 65536 + (plainSums 1 0 input).1) := by
  rw [adler32, adlerSums_eq_plainSums ha hb]
  exact ofNat_append_ofNat _ (by omega)

end Sys2Proof.Machine
end

section
/-! PROOFS. The reader of zlib streams undoes the deflate kernel (42_deflate.md R163, R164, R170), for inputs of every
length: packing keeps the bits, a code read back is its symbol, and the padding ends at a byte boundary. -/

namespace Sys2Proof.Inflate

open Sys2Proof.Machine

/-! Bits and bytes. -/

theorem bitsOf_append (a b : List Byte) : bitsOf (a ++ b) = bitsOf a ++ bitsOf b := List.flatMap_append

theorem bits_byteOfBits (b0 b1 b2 b3 b4 b5 b6 b7 : Bool) :
    (List.range 8).map (byteOfBits b0 b1 b2 b3 b4 b5 b6 b7).getLsbD = [b0, b1, b2, b3, b4, b5, b6, b7] := by
  simp only [byteOfBits, List.range_succ_eq_map, List.range_zero, List.map_cons, List.map_nil, BitVec.getLsbD_append]
  simp

theorem bitsOf_packBytes : ∀ {bits : List Bool}, 8 ∣ bits.length → bitsOf (packBytes bits) = bits
  | [], _ => rfl
  | b0 :: b1 :: b2 :: b3 :: b4 :: b5 :: b6 :: b7 :: rest, h => by
    have hrest : 8 ∣ rest.length := by
      simp only [List.length_cons] at h
      omega
    rw [packBytes, bitsOf, List.flatMap_cons, bits_byteOfBits, ← bitsOf, bitsOf_packBytes hrest]
    rfl
  | [_], h | [_, _], h | [_, _, _], h | [_, _, _, _], h | [_, _, _, _, _], h | [_, _, _, _, _, _], h
  | [_, _, _, _, _, _, _], h => by
    simp only [List.length_cons, List.length_nil] at h
    omega

theorem bitsOf_deflateData (input : List Byte) : bitsOf (deflateData input) = padBits (blockBits input) := by
  refine bitsOf_packBytes ?_
  rw [padBits_length]
  exact Nat.dvd_mul_left ..

theorem bitsOf_be32_length (v : Word) : (bitsOf (be32 v)).length = 32 := rfl

/-! Codes. -/

theorem putCode_succ (c k : Nat) : putCode c (k + 1) = c.testBit k :: putCode c k := by
  simp [putCode, putField, List.range_succ]

/-- The last bit of a code, which the reader takes in only when the bits before it are no code. -/
theorem putCode_succ_eq_append (c k : Nat) : putCode c (k + 1) = putCode (c / 2) k ++ [c.testBit 0] := by
  simp [putCode, putField, List.range_succ_eq_map, Nat.testBit_succ, Function.comp_def]

theorem readCode_putCode_mod (c k acc : Nat) (rest : List Bool) :
    readCode k acc (putCode c k ++ rest) = some (acc * 2 ^ k + c % 2 ^ k, rest) := by
  induction k generalizing acc with
  | zero => simp [putCode, putField, readCode, Nat.mod_one]
  | succ k ih =>
    rw [putCode_succ, List.cons_append, readCode, ih, Nat.mod_pow_succ, Nat.toNat_testBit, Nat.pow_succ]
    congr 2
    ring

theorem readCode_putCode {c k : Nat} (h : c < 2 ^ k) (rest : List Bool) :
    readCode k 0 (putCode c k ++ rest) = some (c, rest) := by
  rw [readCode_putCode_mod, Nat.mod_eq_of_lt h, Nat.zero_mul, Nat.zero_add]

theorem readCode_lastBit (c : Nat) (rest : List Bool) :
    readCode 1 (c / 2) (c.testBit 0 :: rest) = some (c, rest) := by
  rw [readCode, readCode, Nat.toNat_testBit, Nat.pow_zero, Nat.div_one, Nat.div_add_mod]

/-! Symbols. -/

theorem readSymbol_code7 {c : Nat} (h : c < 24) (rest : List Bool) :
    readSymbol (putCode c 7 ++ rest) = some (256 + c, rest) := by
  rw [readSymbol, readCode_putCode (by omega)]
  simp [h]

theorem readSymbol_code8 {c : Nat} (lo : 48 ≤ c) (hi : c < 192) (rest : List Bool) :
    readSymbol (putCode c 8 ++ rest) = some (c - 48, rest) := by
  rw [readSymbol, putCode_succ_eq_append, List.append_assoc, readCode_putCode (by omega)]
  simp only [if_neg (show ¬ c / 2 < 24 by omega), List.cons_append, List.nil_append, readCode_lastBit, if_pos hi]

theorem readSymbol_code9 {c : Nat} (lo : 400 ≤ c) (hi : c < 512) (rest : List Bool) :
    readSymbol (putCode c 9 ++ rest) = some (144 + (c - 400), rest) := by
  rw [readSymbol, putCode_succ_eq_append, putCode_succ_eq_append, List.append_assoc, List.append_assoc,
    readCode_putCode (by omega)]
  simp only [if_neg (show ¬ c / 2 / 2 < 24 by omega), List.cons_append, List.nil_append, readCode_lastBit,
    if_neg (show ¬ c / 2 < 192 by omega), if_neg (show ¬ c / 2 < 200 by omega)]

theorem readSymbol_putLiteral (x : Byte) (rest : List Bool) :
    readSymbol (putLiteral x ++ rest) = some (x.toNat, rest) := by
  have hx := x.isLt
  unfold putLiteral
  split
  · rw [readSymbol_code8 (by omega) (by omega), Nat.add_sub_cancel_left]
  · rw [readSymbol_code9 (by omega) (by omega), show 144 + (0x190 + (x.toNat - 144) - 400) = x.toNat by omega]

theorem readLiterals_literals {input : List Byte} {fuel : Nat} (h : input.length < fuel) (rest : List Bool) :
    readLiterals fuel (input.flatMap putLiteral ++ (putCode 0 7 ++ rest)) = some (input, rest) := by
  induction input generalizing fuel with
  | nil =>
    obtain ⟨fuel, rfl⟩ := Nat.exists_eq_add_one_of_ne_zero (Nat.ne_zero_of_lt h)
    rw [List.flatMap_nil, List.nil_append, readLiterals, readSymbol_code7 (by decide)]
    simp
  | cons x xs ih =>
    obtain ⟨fuel, rfl⟩ := Nat.exists_eq_add_one_of_ne_zero (Nat.ne_zero_of_lt h)
    rw [List.flatMap_cons, List.append_assoc, readLiterals, readSymbol_putLiteral]
    simp [ih (by simpa using h), x.isLt]

/-- A literal has at least one bit, so the number of bits is fuel enough for one symbol each and the end of block. -/
theorem length_lt_symbols_length (input : List Byte) (rest : List Bool) :
    input.length < (input.flatMap putLiteral ++ (putCode 0 7 ++ rest)).length := by
  have hlits := literals_length input
  rw [List.length_append, List.length_append, putCode_length]
  omega

/-! The stream. -/

theorem headerOk_78_DA : headerOk 0x78#8 0xDA#8 = true := by decide

theorem blockBits_eq (input : List Byte) :
    blockBits input = true :: true :: false :: (input.flatMap putLiteral ++ putCode 0 7) := rfl

theorem padBits_eq_append (bits : List Bool) : ∃ k < 8, padBits bits = bits ++ List.replicate k false :=
  ⟨_, Nat.mod_lt _ (by decide), rfl⟩

/-- The bits after the header: the block, its padding and the trailer. -/
theorem bitsOf_body (input : List Byte) (v : Word) : ∃ k < 8,
    bitsOf (deflateData input ++ be32 v) = true :: true :: false ::
      (input.flatMap putLiteral ++ (putCode 0 7 ++ (List.replicate k false ++ bitsOf (be32 v)))) := by
  obtain ⟨k, hk, hpad⟩ := padBits_eq_append (blockBits input)
  refine ⟨k, hk, ?_⟩
  rw [bitsOf_append, bitsOf_deflateData, hpad, blockBits_eq]
  simp only [List.cons_append, List.append_assoc]

/-- The trailer is whole bytes, so what is left over of whole bytes after the end of block is the padding. -/
theorem inflate_dfl9 (input : List Byte) : inflate (dfl9 input) = some input := by
  obtain ⟨k, hk, hbody⟩ := bitsOf_body input (adler32 input)
  have hpad : (List.replicate k false ++ bitsOf (be32 (adler32 input))).length % 8 = k := by
    rw [List.length_append, List.length_replicate, bitsOf_be32_length]
    omega
  simp only [dfl9, List.cons_append, List.nil_append, inflate, if_pos headerOk_78_DA, hbody,
    readLiterals_literals (length_lt_symbols_length input _), hpad]
  exact if_pos ⟨List.take_left' List.length_replicate, List.drop_left' List.length_replicate⟩

end Sys2Proof.Inflate
end

section
/-! PROOFS. What DEFLATE stores (42_deflate.md R160): an output that fits is read back from OBUF, and the completion in
range always fits. -/

namespace Sys2Proof.Machine

theorem State.readBytes_storeBytes (s : State) (a : Nat) (bs : List Byte) :
    (List.range bs.length).map (fun i => (s.storeBytes a bs).readByte (a + i)) = bs := by
  refine List.ext_getElem (by simp) fun i _ hi => ?_
  rw [List.getElem_map, List.getElem_range, State.readByte_storeBytes_inside s a bs i hi]

theorem State.deflateInto_of_overflow (s : State) {capacity : Nat} {out : List Byte} (h : capacity < out.length) :
    s.deflateInto capacity out = s.completeErr .outOverflow :=
  if_pos h

theorem dfl9_length_le {input : List Byte} (h : input.length ≤ 4) : (dfl9 input).length ≤ Config.dflOutWorst := by
  rw [dfl9_length h, Config.dflOutWorst]
  omega

theorem exec_deflate {len : BitVec 16} (h : len.toNat ≤ 4) (s : State) :
    exec (.deflate len) s = .next (State.completeOk { s with
      mem := (s.storeBytes 0x200 (dfl9 (s.bufBytes .ibuf len.toNat))).mem
      olen := BitVec.ofNat 32 (len.toNat + 8) }) := by
  have hlen : (s.bufBytes .ibuf len.toNat).length ≤ 4 := by rwa [State.bufBytes_length]
  have hout := dfl9_length hlen
  have hexec : exec (.deflate len) s = .next (s.deflateInto Config.obufBytes (dfl9 (s.bufBytes .ibuf len.toNat))) :=
    if_pos (decide_eq_true h)
  rw [hexec, State.deflateInto_of_fits s ((dfl9_length_le hlen).trans (by decide)), State.storeBytes_frame, hout,
    State.bufBytes_length]
  rfl

end Sys2Proof.Machine
end

section
/-! PROOFS. The statements of 42_deflate.md. -/

namespace Sys2Proof.Proofs

open Sys2Proof.Machine Sys2Proof.Safety

/-- Settles O31: the row of DEFLATE, LEN's bound, and the completion in range, whose store is read back. -/
theorem deflateRule : Obligations.DeflateRule := by
  refine ⟨fun len => cmdWrite_by_length (i := .deflate len) (bound := 4) rfl,
    rejects_of_row (r := opcodeRows[8]) (List.getElem_mem _), fun s len h => ⟨_, exec_deflate h s, ?_⟩⟩
  have hout : (dfl9 (s.bufBytes .ibuf len.toNat)).length = len.toNat + 8 := by
    rw [dfl9_length (by rwa [State.bufBytes_length]), State.bufBytes_length]
  rw [← State.storeBytes_frame, ← hout]
  exact ⟨s.readBytes_storeBytes 0x200 _, fun a => s.readByte_storeBytes_outside _⟩

/-- Settles O38: the two lengths, and their bound. -/
theorem deflateLengthLaw : Obligations.DeflateLengthLaw :=
  fun _ h => ⟨deflateData_length h, dfl9_length h, dfl9_length_le h, by decide⟩

/-- Settles O39: the plain sums of at most 4 bytes stay far below the modulus. -/
theorem adlerReductionNeverActs : Obligations.AdlerReductionNeverActs := by
  intro input h
  obtain ⟨ha, hb⟩ := plainSums_le_of_length_le h
  exact ⟨adler32_eq_plainSums (by omega) (by omega), ha, hb⟩

/-- Settles O40: the reader undoes the kernel, and the trailer starts after the header and the deflate data. -/
theorem deflateRoundTrip : Obligations.DeflateRoundTrip := by
  refine fun input h => ⟨Inflate.inflate_dfl9 input, rfl, by decide, List.drop_left' ?_⟩
  simp only [List.length_append, List.length_cons, List.length_nil, deflateData_length h]
  omega

/-- Settles O32: the error completion, which writes STATUS and PEND alone. -/
theorem deflateOverflowWritesNothing : Obligations.DeflateOverflowWritesNothing :=
  fun s _ _ h => s.deflateInto_of_overflow h

end Sys2Proof.Proofs
end

section
/-! PROOFS. What a host write can do to the state, one case per effect (10_state.md section 4, 20_memory.md R64,
60_exceptions.md R192, R193), and what a host turn is of it. -/

namespace Sys2Proof.Machine

/-- At most one offset for each register (10_state.md R21). -/
theorem eq_of_place_reg {off off' : Offset} {r : Reg} (h : place off.toNat = .reg r)
    (h' : place off'.toNat = .reg r) : off = off' :=
  BitVec.eq_of_toNat_eq
    ((by decide : ∀ q ∈ regMap, ∀ q' ∈ regMap, q.2 = q'.2 → q.1 = q'.1) _ (place_reg h) _ (place_reg h') rfl)

/-- The state after a host write of `v` to `off`. -/
inductive HostWriteEffect (s : State) : Offset → Word → BitVec 4 → State → Prop where
  /-- The enables, ARG, CRC and IBUF at most, whose memory stays canonical (log 5). -/
  | quiet {off v strb} (d e : Bool) (a c : Word) (m : List Host.Cell) (hm : Memory.wf s.mem → Memory.wf m) :
      HostWriteEffect s off v strb { s with ieDone := d, ieErr := e, arg := a, crc := c, mem := m }
  /-- BUSY, or the decoding error of a word written to CMD. -/
  | error {off v strb} (e : ErrCode) : HostWriteEffect s off v strb (s.raiseErr e)
  | accept {w i} (hp : s.pend = false) (hd : decode w = .ok i) : HostWriteEffect s offCmd w 0b1111#4 (s.accept w)
  | status (v : Word) : HostWriteEffect s offStatus v 0b1111#4 (s.writeStatus v)
  | softReset {v} (hv : v.getLsbD 31 = true) : HostWriteEffect s offCtrl v 0b1111#4 s.softReset

theorem HostWriteEffect.refl (s : State) (off : Offset) (v : Word) (strb : BitVec 4) :
    HostWriteEffect s off v strb s :=
  .quiet s.ieDone s.ieErr s.arg s.crc s.mem id

theorem isBufferByte_iff {a : Nat} :
    isBufferByte a = true ↔ (0x100 ≤ a ∧ a < 0x120) ∨ (0x200 ≤ a ∧ a < 0x240) := by
  simp [isBufferByte]

theorem isBufferByte_of_ibuf {a k : Nat} (h : place a = .ibuf) (ha : a % 4 = 0) (hk : k < 4) :
    isBufferByte (a + k) = true := by
  obtain ⟨lo, hi⟩ := place_ibuf h
  exact isBufferByte_iff.2 (.inl (by omega))

theorem State.writeReg_effect (s : State) (v : Word) {off : Offset} {r : Reg} (h : place off.toNat = .reg r)
    (hw : r.writable = true) (hg : (r.busyGuarded && s.pend) = false) :
    HostWriteEffect s off v 0b1111#4 (s.writeReg v r) := by
  cases r with
  | ctrl =>
    obtain rfl : off = offCtrl := eq_of_place_reg h place_offCtrl
    cases hv : v.getLsbD 31 with
    | true => rw [State.writeReg, s.writeCtrl_of_srst hv]; exact .softReset hv
    | false => rw [State.writeReg, s.writeCtrl_of_not_srst hv]; exact .quiet _ _ s.arg s.crc s.mem id
  | status =>
    obtain rfl : off = offStatus := eq_of_place_reg h place_offStatus
    exact .status v
  | cmd =>
    obtain rfl : off = offCmd := eq_of_place_reg h place_offCmd
    rcases s.submit_cases v with ⟨i, hd, hs⟩ | ⟨e, -, hs⟩
    · rw [State.writeReg, hs]; exact .accept (by simpa [Reg.busyGuarded] using hg) hd
    · rw [State.writeReg, hs]; exact .error e
  | arg => exact .quiet s.ieDone s.ieErr v s.crc s.mem id
  | crc => exact .quiet s.ieDone s.ieErr s.arg v s.mem id
  | id | caps | res | olen => simp [Reg.writable] at hw

theorem memWrite_effect (s : State) (off : Offset) (v : Word) (strb : BitVec 4) :
    HostWriteEffect s off v strb (memWrite s off v strb).1 := by
  rcases memWrite_cases s off v strb with h | ⟨-, h⟩ | ⟨r, hr, hw, rfl, hg, h⟩ | ⟨hi, ha, -, h⟩
  · rw [h]; exact .refl s off v strb
  · rw [h]; exact .error .busy
  · rw [h]; exact s.writeReg_effect v hr hw hg
  · rw [h, State.writeLanes_frame]
    exact .quiet s.ieDone s.ieErr s.arg s.crc _ fun hm =>
      s.writeLanes_wf off.toNat v strb hm fun k => isBufferByte_of_ibuf hi ha

/-- A host turn moves nothing but the host's place and the reply, or has one write's effect besides. -/
theorem State.hostTurn_effect (s : State) :
    (∃ p r, s.hostTurn = { s with hpc := p, reply := r }) ∨
      (∃ off v strb u p r, s.prog[s.hpc]? = some (.write off v strb) ∧ HostWriteEffect s off v strb u ∧
        s.hostTurn = { u with hpc := p, reply := r }) := by
  rcases s.hostTurn_cases with h | ⟨off, v, strb, p, r, hop, h⟩
  · exact .inl h
  · exact .inr ⟨off, v, strb, _, p, r, hop, memWrite_effect s off v strb, h⟩

/-- PEND rises at a host write only by the acceptance of the word written. -/
theorem HostWriteEffect.starts {s t : State} {off : Offset} {v : Word} {strb : BitVec 4}
    (h : HostWriteEffect s off v strb t) (hs : s.pend = false) (ht : t.pend = true) :
    off = offCmd ∧ strb = 0b1111#4 ∧ (∃ i, decode v = .ok i) ∧ t = s.accept v := by
  cases h with
  | quiet | error => simp [hs] at ht
  | accept _ hd => exact ⟨rfl, rfl, ⟨_, hd⟩, rfl⟩
  | status => simp [State.writeStatus_eq, hs] at ht
  | softReset => simp at ht

/-- ERR and its code outlast every host write but the two that clear them. -/
theorem HostWriteEffect.err_cases {s t : State} {off : Offset} {v : Word} {strb : BitVec 4}
    (h : HostWriteEffect s off v strb t) (hs : s.err = true) :
    (t.err = true ∧ t.ecode = s.ecode) ∨
      (t.err = false ∧ strb = 0b1111#4 ∧
        ((off = offStatus ∧ v.getLsbD 2 = true) ∨ (off = offCtrl ∧ v.getLsbD 31 = true))) := by
  cases h with
  | quiet => exact .inl ⟨hs, rfl⟩
  | error => exact .inl (by simp [hs])
  | accept => exact .inl ⟨hs, rfl⟩
  | status =>
    rw [State.writeStatus_eq]
    cases v.getLsbD 2 with
    | false => exact .inl ⟨(Bool.and_true _).trans hs, rfl⟩
    | true => exact .inr ⟨Bool.and_false _, rfl, .inl ⟨rfl, rfl⟩⟩
  | softReset hv => exact .inr ⟨rfl, rfl, .inr ⟨rfl, hv⟩⟩

end Sys2Proof.Machine
end

section
/-! PROOFS. The invariant, operation by operation (60_exceptions.md R196): every effect of a host write, both resets and
every completion keep it, and so a step does. -/

namespace Sys2Proof.Safety

open Sys2Proof.Machine

theorem decode_zero : decode 0x00000000#32 = .ok .nop := decode_encode (i := .nop) rfl

/-- The codes of 60_exceptions.md R190. -/
theorem errCode_legal (e : ErrCode) : e.code ≠ 0#4 ∧ e.code.toNat ≤ 5 := by
  cases e <;> decide

/-- The invariant says nothing of the model's record of the host and the schedule. -/
theorem Inv.hostAt {s : State} (h : Inv s) (p : Nat) (q : Schedule) (r : Option Reply) : Inv (s.hostAt p q r) :=
  { h with }

/-! Resets. -/

/-- The reset values meet the invariant by themselves. -/
theorem inv_resetRegisters {s : State} (hm : Memory.wf s.mem) : Inv s.resetRegisters where
  busy_not_done := by simp
  no_err_no_code := by simp
  err_has_code := by simp
  code_legal := by simp
  olen_legal := by simp
  cmd_decodes := ⟨.nop, decode_zero⟩
  mem_canonical := hm

theorem inv_hardwareReset (s : State) : Inv s.hardwareReset :=
  { inv_resetRegisters (s := { s with mem := [] }) Memory.nil_wf with }

theorem inv_reset : Inv State.reset := inv_resetRegisters (s := State.reset) Memory.nil_wf

/-! Errors and acceptance. -/

theorem Inv.raiseErr {s : State} (h : Inv s) (e : ErrCode) : Inv (s.raiseErr e) where
  busy_not_done := by simp
  no_err_no_code := by simp
  err_has_code _ := by
    rw [State.raiseErr_ecode]
    split
    · exact h.err_has_code ‹_›
    · exact (errCode_legal e).1
  code_legal := by
    rw [State.raiseErr_ecode]
    split
    · exact h.code_legal
    · exact (errCode_legal e).2
  olen_legal := h.olen_legal
  cmd_decodes := h.cmd_decodes
  mem_canonical := h.mem_canonical

theorem Inv.accept {s : State} (h : Inv s) {w : Word} {i : Instr} (hd : decode w = .ok i) : Inv (s.accept w) :=
  { h with busy_not_done := fun _ => rfl, cmd_decodes := ⟨i, hd⟩ }

theorem Inv.clearDone {s : State} (h : Inv s) : Inv s.clearDone :=
  { h with busy_not_done := fun _ => rfl }

theorem Inv.clearErr {s : State} (h : Inv s) : Inv s.clearErr :=
  { h with no_err_no_code := fun _ => rfl, err_has_code := by simp, code_legal := by simp }

theorem Inv.writeStatus {s : State} (h : Inv s) (v : Word) : Inv (s.writeStatus v) := by
  have hdone : Inv (if v.getLsbD 1 then s.clearDone else s) := by
    split
    · exact h.clearDone
    · exact h
  simp only [State.writeStatus]
  split
  · exact hdone.clearErr
  · exact hdone

/-! Events. -/

theorem Inv.hostWrite {s t : State} {off : Offset} {v : Word} {strb : BitVec 4} (h : Inv s)
    (hw : HostWriteEffect s off v strb t) : Inv t := by
  cases hw with
  | quiet d e a c m hm => exact { h with mem_canonical := hm h.mem_canonical }
  | error e => exact h.raiseErr e
  | accept _ hd => exact h.accept hd
  | status => exact h.writeStatus v
  | softReset => exact inv_resetRegisters h.mem_canonical

theorem Inv.hostTurn {s : State} (h : Inv s) : Inv s.hostTurn := by
  rcases s.hostTurn_effect with ⟨p, r, hh⟩ | ⟨off, v, strb, u, p, r, -, hw, hh⟩
  · rw [hh]; exact h.hostAt p s.sched r
  · rw [hh]; exact (h.hostWrite hw).hostAt p u.sched r

/-- A completion ends PEND, so DONE may rise. -/
theorem Inv.completeOk {s : State} (h : Inv s) : Inv s.completeOk :=
  { h with busy_not_done := by simp }

theorem isBufferByte_obuf {i : Nat} (h : i < 0x40) : isBufferByte (bufBase .obuf + i) = true := by
  rw [isBufferByte_iff, bufBase]
  omega

/-- An input of at most 4 bytes gives 8 to 12 bytes of output, which fit OBUF and are OLEN's legal values. -/
theorem Inv.deflateInto {s : State} (h : Inv s) {input : List Byte} (hlen : input.length ≤ 4) :
    Inv (s.deflateInto Config.obufBytes (dfl9 input)) := by
  have hout := dfl9_length hlen
  have hfit : (dfl9 input).length ≤ Config.obufBytes := (dfl9_length_le hlen).trans (by decide)
  have hmem : Memory.wf (s.storeBytes (bufBase .obuf) (dfl9 input)).mem :=
    s.storeBytes_wf _ _ h.mem_canonical fun i hi => isBufferByte_obuf (hi.trans_le hfit)
  have holen : (BitVec.ofNat 32 (dfl9 input).length).toNat ∈ [0, 8, 9, 10, 11, 12] := by
    rw [hout, BitVec.toNat_ofNat, Nat.mod_eq_of_lt (by omega)]
    simp only [List.mem_cons, List.not_mem_nil, or_false]
    omega
  rw [State.deflateInto_of_fits s hfit, State.storeBytes_frame]
  exact Inv.completeOk { h with olen_legal := holen, mem_canonical := hmem }

theorem Inv.exec_next {s t : State} {i : Instr} (h : Inv s) (he : exec i s = .next t) : Inv t := by
  rcases exec_next_cases he with ⟨r, c, rfl⟩ | ⟨input, hlen, rfl⟩
  · exact Inv.completeOk { h with }
  · exact h.deflateInto hlen

theorem Inv.step_next {s t : State} (h : Inv s) (hs : step s = .next t) : Inv t := by
  have hq : Inv { s with sched := s.nextTurn.2 } := h.hostAt s.hpc s.nextTurn.2 s.reply
  rcases step_next_cases hs with ⟨-, rfl⟩ | ⟨-, rfl⟩ | ⟨-, -, rfl⟩ | ⟨-, -, i, -, he⟩
  · exact hq.hostTurn
  · exact inv_hardwareReset _
  · exact hq
  · exact hq.exec_next he

end Sys2Proof.Safety
end

section
/-! PROOFS. Steps and runs: while CMD decodes no step stops (60_exceptions.md R194), and a command in flight ends within
the turns its schedule has left (log 2). -/

namespace Sys2Proof.Machine

open Sys2Proof.Safety

/-! Turns. -/

theorem step_of_host {s : State} (h : s.nextTurn.1 = .host) :
    step s = .next (State.hostTurn { s with sched := s.nextTurn.2 }) := by
  simp only [step, h, State.runTurn]

theorem step_of_hardwareReset {s : State} (h : s.nextTurn.1 = .hardwareReset) :
    step s = .next (State.hardwareReset { s with sched := s.nextTurn.2 }) := by
  simp only [step, h, State.runTurn]

/-- An engine turn with no command in flight passes (log 3). -/
theorem step_of_engine_idle {s : State} (h : s.nextTurn.1 = .engine) (hp : s.pend = false) :
    step s = .next { s with sched := s.nextTurn.2 } := by
  simp only [step, h, State.runTurn, State.engineTurn, hp, Bool.false_eq_true, if_false]

theorem exec_next_of_decode_ok {w : Word} {i : Instr} (h : decode w = .ok i) (s : State) : ∃ t, exec i s = .next t := by
  obtain ⟨-, -, -, -, hwf⟩ := (decode_eq_ok_iff w i).1 h
  exact exec_next_of_wf hwf s

theorem step_next_of_cmd_decodes {s : State} {i : Instr} (hd : decode s.cmd = .ok i) : ∃ t, step s = .next t := by
  cases hturn : s.nextTurn.1 with
  | host => exact ⟨_, step_of_host hturn⟩
  | hardwareReset => exact ⟨_, step_of_hardwareReset hturn⟩
  | engine =>
    cases hp : s.pend with
    | false => exact ⟨_, step_of_engine_idle hturn hp⟩
    | true =>
      rw [step_of_engine hturn hp hd]
      exact exec_next_of_decode_ok hd _

/-! The schedule. -/

theorem State.hostTurn_sched (s : State) : s.hostTurn.sched = s.sched := by
  rcases s.hostTurn_cases with ⟨p, r, h⟩ | ⟨off, v, strb, p, r, -, h⟩
  · rw [h]
  · obtain ⟨-, -, hsched, -⟩ := memWrite_host s off v strb
    rw [h, hsched]

theorem exec_next_sched {i : Instr} {s t : State} (h : exec i s = .next t) : t.sched = s.sched := by
  rcases exec_next_writes h with rfl | ⟨-, r, rfl⟩ | ⟨-, c, rfl⟩ | ⟨-, out, -, rfl⟩ <;> rfl

/-- A step takes its turn off the schedule and does nothing else to it. -/
theorem step_next_sched {s t : State} (h : step s = .next t) : t.sched = s.nextTurn.2 := by
  rcases step_next_cases h with ⟨-, rfl⟩ | ⟨-, rfl⟩ | ⟨-, -, rfl⟩ | ⟨-, -, i, -, he⟩
  · exact State.hostTurn_sched _
  · rfl
  · rfl
  · exact exec_next_sched he

theorem step_next_pend_of_engine {s t : State} (h : step s = .next t) (hturn : s.nextTurn.1 = .engine) :
    t.pend = false := by
  rcases step_next_cases h with ⟨hn, -⟩ | ⟨hn, -⟩ | ⟨-, hp, rfl⟩ | ⟨-, -, i, -, he⟩
  · simp [hturn] at hn
  · simp [hturn] at hn
  · exact hp
  · exact exec_next_pend he

/-- How many events come at most before the engine's turn: those listed, and those left of the round. -/
def Schedule.eventsLeft (q : Schedule) : Nat := q.listed.length + (Config.busyLatency q.round - q.spent)

/-- With a command in flight the next event is the engine's, or one event fewer is left before it. -/
theorem State.nextTurn_engine_or_eventsLeft_lt {s : State} (hp : s.pend = true) :
    s.nextTurn.1 = .engine ∨ s.nextTurn.2.eventsLeft < s.sched.eventsLeft := by
  rcases s.nextTurn_cases with ⟨turn, rest, hl, hn⟩ | ⟨hl, hlt, hn, -⟩ | ⟨-, -, hn⟩
  · refine .inr ?_
    rw [hn]
    simp only [Schedule.eventsLeft, hl, List.length_cons]
    omega
  · refine .inr ?_
    rw [hn]
    simp only [Schedule.eventsLeft]
    omega
  · exact .inl (by rw [hn, hp]; rfl)

end Sys2Proof.Machine

namespace Sys2Proof.Safety

open Sys2Proof.Machine

/-! Runs from the invariant. -/

theorem Inv.exists_step {s : State} (h : Inv s) : ∃ t, step s = .next t ∧ Inv t := by
  obtain ⟨i, hd⟩ := h.cmd_decodes
  obtain ⟨t, ht⟩ := step_next_of_cmd_decodes hd
  exact ⟨t, ht, h.step_next ht⟩

theorem Inv.exists_run {s : State} (h : Inv s) (k : Nat) : ∃ t, Sys2Proof.core.run k s = .next t ∧ Inv t := by
  induction k generalizing s with
  | zero => exact ⟨s, run_zero s, h⟩
  | succ k ih =>
    obtain ⟨u, hu, hinv⟩ := h.exists_step
    rw [run_succ_of_next hu]
    exact ih hinv

theorem Inv.exists_run_pend_false {s : State} (h : Inv s) (hp : s.pend = true) :
    ∃ k t, k ≤ s.sched.eventsLeft + 1 ∧ Sys2Proof.core.run k s = .next t ∧ t.pend = false := by
  induction hn : s.sched.eventsLeft using Nat.strong_induction_on generalizing s with
  | _ n ih =>
    obtain ⟨u, hu, hinv⟩ := h.exists_step
    cases hup : u.pend with
    | false => exact ⟨1, u, by omega, run_succ_of_next hu 0, hup⟩
    | true =>
      have hlt : u.sched.eventsLeft < n := by
        rw [step_next_sched hu, ← hn]
        refine (State.nextTurn_engine_or_eventsLeft_lt hp).resolve_left fun hturn => ?_
        simp [step_next_pend_of_engine hu hturn] at hup
      obtain ⟨k, t, hk, hrun, ht⟩ := ih _ hlt hinv hup rfl
      exact ⟨k + 1, t, by omega, (run_succ_of_next hu k).trans hrun, ht⟩

end Sys2Proof.Safety
end

section
/-! PROOFS. The causes of an error at a CMD write against the decoder (60_exceptions.md R190, R197). -/

namespace Sys2Proof.Safety

open Sys2Proof.Machine

theorem opOf_le_of_lenTooLong {w : Word} (h : lenTooLong w) : opOf w ≤ 8 := by
  rcases h with ⟨h, -⟩ | ⟨h, -⟩ | ⟨h, -⟩ <;> omega

theorem eq_busy_of_code_le_one {e : ErrCode} (h : e.code.toNat ≤ 1) : e = .busy := by
  cases e with
  | busy => rfl
  | _ => exact absurd h (by decide)

/-- With no command in flight, the lowest-numbered cause is the decoder's error. -/
theorem decode_of_lowest_cause {s : State} {w : Word} {e : ErrCode} (hp : s.pend = false) (hc : causes s w e)
    (hlow : ∀ e', causes s w e' → e.code.toNat ≤ e'.code.toNat) : decode w = .error e := by
  obtain ⟨hillegal, hrsvd, hlen, -⟩ := Proofs.decodeChecksInOrder w
  cases e with
  | busy => simp [causes, hp] at hc
  | illegalOp => exact hillegal hc
  | rsvdField => exact hrsvd hc.1 hc.2
  | lenRange =>
    have hle := opOf_le_of_lenTooLong hc
    refine hlen hle (not_not.1 fun hset => ?_) hc
    exact absurd (hlow .rsvdField ⟨hle, hset⟩) (by decide)
  | outOverflow => exact hc.elim

theorem decode_ok_of_no_cause {s : State} {w : Word} (h : ∀ e, ¬ causes s w e) : ∃ i, decode w = .ok i := by
  obtain ⟨-, -, -, hok⟩ := Proofs.decodeChecksInOrder w
  have hle : opOf w ≤ 8 := Nat.le_of_lt_succ (Nat.not_le.1 (h .illegalOp))
  obtain ⟨r, -, -, hd⟩ := hok hle (not_not.1 fun hset => h .rsvdField ⟨hle, hset⟩) (h .lenRange)
  exact ⟨_, hd⟩

theorem memWrite_cmd_of_lowest_cause {s : State} {w : Word} {e : ErrCode} (hc : causes s w e)
    (hlow : ∀ e', causes s w e' → e.code.toNat ≤ e'.code.toNat) :
    memWrite s offCmd w 0b1111#4 = (s.raiseErr e, .okay) := by
  cases hp : s.pend with
  | false => rw [memWrite_cmd_of_idle s w hp, s.submit_of_decode_error (decode_of_lowest_cause hp hc hlow)]
  | true =>
    obtain rfl : e = .busy := eq_busy_of_code_le_one (hlow .busy hp)
    exact memWrite_cmd_of_busy s w hp

theorem statusWord_raiseErr_ecode {s : State} (h : s.err = false) (e : ErrCode) :
    (s.raiseErr e).statusWord.extractLsb' 4 4 = e.code := by
  rw [State.statusWord_ecode, State.raiseErr_ecode, h]
  rfl

end Sys2Proof.Safety
end

section
/-! PROOFS. The statements of 60_exceptions.md. -/

namespace Sys2Proof.Proofs

open Sys2Proof.Machine Sys2Proof.Safety

/-- Settles O45: each event keeps the invariant. -/
theorem stepKeepsTheInvariant : Obligations.StepKeepsTheInvariant :=
  fun _ _ h hs => h.step_next hs

/-- Settles O46: CMD decodes, so a completion has a meaning. -/
theorem stepNeverStops : Obligations.StepNeverStops := by
  intro s h
  obtain ⟨i, hd⟩ := h.cmd_decodes
  exact step_next_of_cmd_decodes hd

/-- Settles O44: the reset values meet the invariant. -/
theorem resetMeetsTheInvariant : Obligations.ResetMeetsTheInvariant := inv_reset

/-- Settles O47: the invariant holds along the run, and R196 is four of its clauses. -/
theorem reachableStatesMeetR196 : Obligations.ReachableStatesMeetR196 := by
  intro prog sched k
  have hstart : Inv { State.reset with prog := prog, sched := sched } := { inv_reset with }
  obtain ⟨t, hrun, h⟩ := hstart.exists_run k
  have hcode : t.ecode.toNat ∈ [0, 1, 2, 3, 4, 5] := by
    have := h.code_legal
    simp only [List.mem_cons, List.not_mem_nil, or_false]
    omega
  exact ⟨t, hrun, h.busy_not_done, h.no_err_no_code, hcode, h.olen_legal⟩

/-- Settles O52: each event short of the engine's turn leaves one fewer before it. -/
theorem pendingCommandEnds : Obligations.PendingCommandEnds :=
  fun _ h hp => h.exists_run_pend_false hp

/-- Settles O49: of all events only a host write raises PEND, and it does so by acceptance. -/
theorem onlyACmdWriteStartsACommand : Obligations.OnlyACmdWriteStartsACommand := by
  intro s t hs h ht
  rcases step_next_cases h with ⟨hturn, rfl⟩ | ⟨-, rfl⟩ | ⟨-, -, rfl⟩ | ⟨-, hp, -⟩
  · rcases State.hostTurn_effect { s with sched := s.nextTurn.2 } with
      ⟨p, r, hh⟩ | ⟨off, v, strb, u, p, r, hop, hw, hh⟩
    · rw [hh] at ht
      simp [hs] at ht
    · rw [hh] at ht ⊢
      obtain ⟨rfl, rfl, ⟨i, hd⟩, rfl⟩ := hw.starts hs ht
      exact ⟨v, i, ⟨hturn, hop⟩, hd, rfl, rfl⟩
  · simp at ht
  · simp [hs] at ht
  · simp [hs] at hp

/-- Settles O50: a completion and an idle engine keep ERR, and of the host's writes all but two. -/
theorem errAndFirstCodeStayUntilCleared : Obligations.ErrAndFirstCodeStayUntilCleared := by
  intro s t hs h
  rcases step_next_cases h with ⟨hturn, rfl⟩ | ⟨hturn, rfl⟩ | ⟨-, -, rfl⟩ | ⟨-, -, i, -, he⟩
  · rcases State.hostTurn_effect { s with sched := s.nextTurn.2 } with
      ⟨p, r, hh⟩ | ⟨off, v, strb, u, p, r, hop, hw, hh⟩
    · rw [hh]
      exact .inl ⟨hs, rfl⟩
    · rw [hh]
      rcases hw.err_cases hs with hkept | ⟨hclear, rfl, ⟨rfl, hv⟩ | ⟨rfl, hv⟩⟩
      · exact .inl hkept
      · exact .inr ⟨hclear, .inr (.inl ⟨v, hv, hturn, hop⟩)⟩
      · exact .inr ⟨hclear, .inr (.inr ⟨v, hv, hturn, hop⟩)⟩
  · exact .inr ⟨rfl, .inl hturn⟩
  · exact .inl ⟨hs, rfl⟩
  · obtain ⟨-, -, -, -, herr, hcode, -⟩ := eachCommandWritesOnlyItsRegisters i _ t he
    exact .inl ⟨herr.trans hs, hcode⟩

/-- Settles O51: an idle engine's turn passes, and so does the turn of a host with no operation left. -/
theorem idleEngineKeepsItsState : Obligations.IdleEngineKeepsItsState := by
  intro s hp hreset hended
  cases hturn : s.nextTurn.1 with
  | host =>
    rw [step_of_host hturn, State.hostTurn]
    simp only [hended hturn]
  | engine => exact step_of_engine_idle hturn hp
  | hardwareReset => exact absurd hturn hreset

/-- Settles O15: the CMD write by PEND and by what the decoder answers. -/
theorem commandAcceptance : Obligations.CommandAcceptance := by
  refine fun s w => ⟨memWrite_cmd_of_busy s w, fun e hp hd => ?_, fun i hp hd => accepts_of_decode_ok hd s hp⟩
  rw [memWrite_cmd_of_idle s w hp, s.submit_of_decode_error hd]

/-- Settles O18: BUSY is below every other code, and the decoder checks the rest in their order. -/
theorem lowestErrorCodeWins : Obligations.LowestErrorCodeWins := by
  refine ⟨fun s w e => memWrite_cmd_of_lowest_cause, fun s w h => ?_, fun s herr => ?_,
    ⟨rfl, rfl, rfl, rfl, rfl⟩, by decide, by decide⟩
  · obtain ⟨i, hd⟩ := decode_ok_of_no_cause h
    exact accepts_of_decode_ok hd s (eq_false_of_ne_true (h .busy))
  · exact ⟨statusWord_raiseErr_ecode herr .busy, statusWord_raiseErr_ecode herr .illegalOp,
      statusWord_raiseErr_ecode herr .rsvdField, statusWord_raiseErr_ecode herr .lenRange,
      statusWord_raiseErr_ecode herr .outOverflow⟩

/-- Settles O16: the fields of `raiseErr`. -/
theorem raiseErrRecordsTheFirstCode : Obligations.RaiseErrRecordsTheFirstCode := by
  refine fun s e => ⟨rfl, rfl, fun h => ?_, fun h => ?_, rfl, rfl, rfl, rfl, rfl, rfl, rfl,
    State.readByte_congr rfl rfl, rfl⟩ <;> simp [h]

/-- Settles O17: the STATUS write as one update, after which ERR = 0; and an acceptance does not read ERR. -/
theorem errorReturnClearsErrAndCode : Obligations.ErrorReturnClearsErrAndCode := by
  intro s v hv
  refine ⟨_, memWrite_status s v, ?_⟩
  rw [State.writeStatus_eq, hv]
  refine ⟨Bool.and_false _, rfl, rfl, rfl, rfl, rfl, rfl, rfl, rfl, State.readByte_congr rfl rfl, fun e => ?_,
    fun u i w _ hp hd => accepts_of_decode_ok hd u hp⟩
  simp

/-- Settles O19: the fields after each update of STATUS; a command in range completes without error. -/
theorem statusAfterEachEvent : Obligations.StatusAfterEachEvent := by
  refine ⟨fun s w i hp hd => ⟨_, accepts_of_decode_ok hd s hp, rfl, rfl, rfl, rfl⟩, fun s w e hp hd => ?_,
    fun s w hp => ⟨_, memWrite_cmd_of_busy s w hp, hp, rfl, rfl, ?_⟩, fun s i hwf => ?_,
    fun s capacity out h => ?_, fun s v => ?_⟩
  · obtain ⟨-, hrejected, -⟩ := commandAcceptance s w
    obtain ⟨-, -, hfirst, hkept, -⟩ := raiseErrRecordsTheFirstCode s e
    exact ⟨_, hrejected e hp hd, hp, rfl, rfl, hfirst, hkept⟩
  · obtain ⟨-, -, hfirst, hkept, -⟩ := raiseErrRecordsTheFirstCode s .busy
    exact ⟨hfirst, hkept⟩
  · obtain ⟨t, ht⟩ := exec_next_of_wf hwf s
    refine ⟨t, ht, ?_⟩
    rcases exec_next_writes ht with rfl | ⟨-, r, rfl⟩ | ⟨-, c, rfl⟩ | ⟨-, out, -, rfl⟩ <;> exact ⟨rfl, rfl, rfl, rfl⟩
  · obtain ⟨-, -, hfirst, hkept, -⟩ := raiseErrRecordsTheFirstCode s .outOverflow
    rw [s.deflateInto_of_overflow h]
    exact ⟨rfl, rfl, rfl, hfirst, hkept⟩
  · rw [memWrite_status, State.writeStatus_eq]
    refine ⟨rfl, fun hv => ?_, fun hv => ?_, fun hv => ?_, fun hv => ?_⟩ <;> rw [hv]
    · exact Bool.and_false _
    · exact Bool.and_true _
    · exact ⟨Bool.and_false _, rfl⟩
    · exact ⟨Bool.and_true _, rfl⟩

/-- Settles O20: the engine's turn with a command in flight. -/
theorem engineStepRunsTheDecodedCommand : Obligations.EngineStepRunsTheDecodedCommand :=
  fun _ _ hp hturn hd => step_of_engine hturn hp hd

/-- Settles O43: the bits of both words are the fields, and both resets clear all four. -/
theorem interruptLine : Obligations.InterruptLine := by
  intro s
  refine ⟨?_, rfl, rfl, rfl⟩
  rw [s.statusWord_getLsbD, s.statusWord_getLsbD, s.ctrlWord_getLsbD, s.ctrlWord_getLsbD]
  rfl

end Sys2Proof.Proofs
end

section
/-! PROOFS. Both resets (70_reset_and_hazards.md R221, R222, R224): the registers after them, what the buffers read
as, and the events that count no draw (log 4). -/

namespace Sys2Proof.Safety

open Sys2Proof.Machine

theorem registersReset_resetRegisters (s : State) : registersReset s.resetRegisters :=
  ⟨by simp [State.ctrlWord], by simp [State.statusWord], rfl, rfl, rfl, rfl, rfl, rfl, rfl⟩

theorem registersReset_hardwareReset (s : State) : registersReset s.hardwareReset :=
  registersReset_resetRegisters s

end Sys2Proof.Safety

namespace Sys2Proof.Machine

theorem State.readByte_of_mem_nil {s : State} (h : s.mem = []) (a : Nat) :
    s.readByte a = Config.bufferDraw s.draws a := by
  rw [State.readByte, h]
  rfl

theorem State.hostTurn_draws (s : State) : s.hostTurn.draws = s.draws := by
  rcases s.hostTurn_cases with ⟨p, r, h⟩ | ⟨off, v, strb, p, r, -, h⟩
  · rw [h]
  · obtain ⟨-, -, -, -, hdraws⟩ := memWrite_host s off v strb
    rw [h, hdraws]

theorem exec_next_draws {i : Instr} {s t : State} (h : exec i s = .next t) : t.draws = s.draws := by
  rcases exec_next_writes h with rfl | ⟨-, r, rfl⟩ | ⟨-, c, rfl⟩ | ⟨-, out, -, rfl⟩ <;> rfl

/-- Only a hardware reset draws the buffers. -/
theorem step_next_draws {s t : State} (hturn : s.nextTurn.1 ≠ .hardwareReset) (h : step s = .next t) :
    t.draws = s.draws := by
  rcases step_next_cases h with ⟨-, rfl⟩ | ⟨hreset, -⟩ | ⟨-, -, rfl⟩ | ⟨-, -, i, -, he⟩
  · exact State.hostTurn_draws _
  · exact absurd hreset hturn
  · rfl
  · exact (exec_next_draws he :)

end Sys2Proof.Machine
end

section
/-! PROOFS. The statements of 70_reset_and_hazards.md. -/

namespace Sys2Proof.Proofs

open Sys2Proof.Machine Sys2Proof.Safety

/-- Settles O41: a hardware reset leaves no byte written, so every byte reads as the draw it has just counted. -/
theorem hardwareResetState : Obligations.HardwareResetState := by
  refine ⟨registersReset_resetRegisters State.reset, State.readByte_of_mem_nil rfl,
    fun s hturn => ⟨_, step_of_hardwareReset hturn, ?_⟩, fun s t => step_next_draws⟩
  exact ⟨registersReset_hardwareReset _, Nat.lt_succ_self s.draws,
    State.readByte_of_mem_nil rfl, memRead_reg _ (off := 0x000#12) place_id,
    memRead_reg _ (off := 0x004#12) place_caps⟩

/-- Settles O42: the write is the soft reset, which sets the registers and touches neither `mem` nor the draws. -/
theorem softResetKeepsTheBuffers : Obligations.SoftResetKeepsTheBuffers := by
  intro s v hv
  refine ⟨s.softReset, ?_, registersReset_resetRegisters s, rfl, rfl, rfl, State.readByte_congr rfl rfl⟩
  rw [memWrite_ctrl, s.writeCtrl_of_srst hv]

end Sys2Proof.Proofs
end

section
/-! PROOFS. A command that is not well-formed has no meaning (log 6): the refusing half of `exec_next_of_wf`. -/

namespace Sys2Proof.Machine

theorem exec_refused_of_not_wf {i : Instr} (h : i.wf = false) (s : State) : exec i s = .refused .lengthOutOfRange := by
  cases i with
  | crcBuf src len | crcBlock src len =>
    have hfits : lenFits src len = false := by cases src <;> exact h
    exact if_neg (Bool.eq_false_iff.mp hfits)
  | deflate len => exact if_neg (Bool.eq_false_iff.mp h)
  | nop | bswap | crcInit | crcByte _ | crcWord | crcFinal => cases h

end Sys2Proof.Machine
end

section
/-! PROOFS. The statement of 93_implementation_defined.md U12. -/

namespace Sys2Proof.Proofs

open Sys2Proof.Machine

/-- Settles O33: a LEN above its bound is what makes each of these commands not well-formed. -/
theorem outOfRangeLengthIsRefused : Obligations.OutOfRangeLengthIsRefused := by
  refine fun s len => ⟨fun ibufTooLong => ?_, fun obufTooLong => ?_, fun deflateTooLong => ?_⟩
  · have hwf : decide (len.toNat ≤ 32) = false := decide_eq_false (Nat.not_le.mpr ibufTooLong)
    exact ⟨exec_refused_of_not_wf (i := .crcBuf .ibuf len) hwf s,
      exec_refused_of_not_wf (i := .crcBlock .ibuf len) hwf s⟩
  · have hwf : decide (len.toNat ≤ 64) = false := decide_eq_false (Nat.not_le.mpr obufTooLong)
    exact ⟨exec_refused_of_not_wf (i := .crcBuf .obuf len) hwf s,
      exec_refused_of_not_wf (i := .crcBlock .obuf len) hwf s⟩
  · exact exec_refused_of_not_wf (i := .deflate len) (decide_eq_false (Nat.not_le.mpr deflateTooLong)) s

end Sys2Proof.Proofs
end
